-- ==== Sys2Proof/Word.lean ====
section
/-! DEFINITION. The word types of the CHIP-8 core: bytes, 16-bit words, register numbers and the
12-bit address immediate. All values are unsigned (spec 00 R6). -/

namespace Sys2Proof

/-- The 8-bit unit of memory, of the general registers and of the timers (10 R11, R17, R21). -/
abbrev Byte := BitVec 8

/-- A 16-bit value: an opcode, `pc`, `I` or a return address (10 R13, R14, R15; 30 R43). -/
abbrev Word := BitVec 16

/-- The number of a general register, of a stack entry or of a key, 0x0 to 0xF (10 R11, R15, R19). -/
abbrev Reg := Fin 16

/-- A 4-bit field of an opcode used as a number: the sprite height `n` (30 R44). -/
abbrev Nibble := BitVec 4

/-- The 12-bit address immediate `nnn` (30 R44). -/
abbrev Imm12 := BitVec 12

/-- VF, the register that several instructions write as a flag (10 R12). -/
abbrev VF : Reg := 15

end Sys2Proof
end

