-- ==== Sys2Proof/Machine/Flags.lean ====
section
/-! DEFINITION. The values written to VF (10 R12, 42 R72) and the arithmetic they go with, computed exactly on
natural numbers and narrowed at the end. -/

namespace Sys2Proof.Machine

/-- A flag as a register value, 1 or 0. -/
def flag (c : Bool) : Byte := if c then 1 else 0

/-- The unmasked sum of two bytes, 0 to 510 (42 R79). -/
def byteSum (a b : Byte) : Nat := a.toNat + b.toNat

/-- The carry of 8xy4: the sum exceeds 255 (42 R79). -/
def carryFlag (a b : Byte) : Byte := flag (decide (255 < byteSum a b))

/-- The not-borrow of `a - b`: 1 when `a >= b`, equal operands included (42 R80, R82). -/
def noBorrowFlag (a b : Byte) : Byte := flag (decide (b.toNat ≤ a.toNat))

/-- The bit 8xy6 shifts out, bit 0 (42 R81). -/
def lowBitFlag (a : Byte) : Byte := flag (a.getLsbD 0)

/-- The bit 8xyE shifts out, bit 7 (42 R83). -/
def highBitFlag (a : Byte) : Byte := flag (a.getLsbD 7)

/-- The unmasked sum of Fx1E (43 R89). -/
def indexSum (i : Word) (v : Byte) : Nat := i.toNat + v.toNat

/-- The decimal digits of a byte, hundreds first (43 R91). -/
def decimalDigits (v : Byte) : List Byte :=
  [BitVec.ofNat 8 (v.toNat / 100), BitVec.ofNat 8 (v.toNat / 10 % 10), BitVec.ofNat 8 (v.toNat % 10)]

end Sys2Proof.Machine
end

