-- ==== Sys2Proof/Config.lean ====
section
/-! DEFINITION. What the spec leaves to the outside of the core. The spec fixes every size (00 R5);
two items are open: the random input `rnd`, a free value below, and the font table FONT, whose
default stands in Sys2Proof/Machine/Font.lean. -/

namespace Sys2Proof

/-- FREE VALUE (log entry 1). The 8-bit random input `rnd` of the k-th Cxnn step: any value 0 to 255,
under no law (42 R84; 92 D8). It has no body, so nothing can be proved of its values, and what is
proved of a Cxnn step holds for every one of them. -/
opaque Config.rnd : Nat → BitVec 8

end Sys2Proof
end

