-- ==== Sys2Proof/Syntax.lean ====
section
/-! DEFINITION. The instruction set: one constructor per row of spec/opcode_table.json, in the order of
30 R48. Every field is exactly as wide as the encoding's field (30 R44, R46), so no operand out of
range can be written down. -/

namespace Sys2Proof

/-- The 34 instructions of 30 R48. Register operands are numbers, immediates are bit vectors used as
unsigned numbers (30 R46). -/
inductive Instr where
  /-- 00E0, clear the display (44 R94). -/
  | cls
  /-- 00EE, return from a subroutine (41 R66). -/
  | ret
  /-- 1nnn, jump (41 R64). -/
  | jp (nnn : Imm12)
  /-- 2nnn, call a subroutine (41 R65). -/
  | call (nnn : Imm12)
  /-- 3xnn, skip if equal to the immediate (41 R68). -/
  | seImm (x : Reg) (nn : Byte)
  /-- 4xnn, skip if not equal to the immediate (41 R69). -/
  | sneImm (x : Reg) (nn : Byte)
  /-- 5xy0, skip if registers are equal (41 R70). -/
  | seReg (x y : Reg)
  /-- 6xnn, load the immediate (42 R73). -/
  | ldImm (x : Reg) (nn : Byte)
  /-- 7xnn, add the immediate, no flag (42 R74). -/
  | addImm (x : Reg) (nn : Byte)
  /-- 8xy0, copy a register (42 R75). -/
  | ldReg (x y : Reg)
  /-- 8xy1, bitwise OR (42 R76). -/
  | or (x y : Reg)
  /-- 8xy2, bitwise AND (42 R77). -/
  | and (x y : Reg)
  /-- 8xy3, bitwise exclusive OR (42 R78). -/
  | xor (x y : Reg)
  /-- 8xy4, add with carry out to VF (42 R79). -/
  | addReg (x y : Reg)
  /-- 8xy5, subtract with not-borrow to VF (42 R80). -/
  | sub (x y : Reg)
  /-- 8xy6, shift right; `y` is encoded and ignored (30 R45, 42 R81; log entry 19). -/
  | shr (x y : Reg)
  /-- 8xy7, reverse subtract (42 R82). -/
  | subn (x y : Reg)
  /-- 8xyE, shift left; `y` is encoded and ignored (30 R45, 42 R83; log entry 19). -/
  | shl (x y : Reg)
  /-- 9xy0, skip if registers differ (41 R71). -/
  | sneReg (x y : Reg)
  /-- Annn, load the index register (43 R88). -/
  | ldI (nnn : Imm12)
  /-- Bnnn, jump to nnn plus V0 (41 R67). -/
  | jpV0 (nnn : Imm12)
  /-- Cxnn, random byte masked (42 R84). -/
  | rnd (x : Reg) (nn : Byte)
  /-- Dxyn, draw a sprite (44 R95). -/
  | drw (x y : Reg) (n : Nibble)
  /-- Ex9E, skip if the key is down (45 R99). -/
  | skp (x : Reg)
  /-- ExA1, skip if the key is up (45 R100). -/
  | sknp (x : Reg)
  /-- Fx07, read the delay timer (45 R102). -/
  | ldVxDt (x : Reg)
  /-- Fx15, write the delay timer (45 R103). -/
  | ldDtVx (x : Reg)
  /-- Fx18, write the sound timer (45 R104). -/
  | ldStVx (x : Reg)
  /-- Fx1E, add to the index register (43 R89). -/
  | addI (x : Reg)
  /-- Fx0A, wait for a key (45 R101). -/
  | ldVxK (x : Reg)
  /-- Fx29, address of a font glyph (43 R90). -/
  | ldF (x : Reg)
  /-- Fx33, store the decimal digits (43 R91). -/
  | ldB (x : Reg)
  /-- Fx55, store V0 to Vx (43 R92). -/
  | stRegs (x : Reg)
  /-- Fx65, load V0 to Vx (43 R93). -/
  | ldRegs (x : Reg)
  deriving DecidableEq, Repr

end Sys2Proof
end

