-- ==== Sys2Proof/WellFormed.lean ====
section
/-! DEFINITION. Well-formed opcodes: the opcode map of 30 R48 as (mask, match) pairs, transcribed from the
spec's table and not from the decoder, and which row each constructor stands for. The operand fields of
`Instr` have the widths of the encoding, so every term of `Instr` is well-formed; what can be ill-formed is
a 16-bit opcode, and 30 R49 lists those. -/

namespace Sys2Proof

/-- One row of the opcode map: an opcode belongs to it when `opcode & mask = value` (30 R47). -/
structure OpcodeRow where
  /-- The identifier of 30 R51. -/
  mnemonic : String
  /-- The literal bits. -/
  mask : Word
  /-- Their values (the column "match"). -/
  value : Word
  deriving DecidableEq, Repr

/-- Whether an opcode satisfies a row's (mask, match) pair (30 R47). -/
def OpcodeRow.admits (r : OpcodeRow) (op : Word) : Bool := op &&& r.mask == r.value

/-- Rows 1 to 12 of 30 R48. -/
def opcodeRows1 : List OpcodeRow := [
  ⟨"CLS", 0xFFFF#16, 0x00E0#16⟩,
  ⟨"RET", 0xFFFF#16, 0x00EE#16⟩,
  ⟨"JP", 0xF000#16, 0x1000#16⟩,
  ⟨"CALL", 0xF000#16, 0x2000#16⟩,
  ⟨"SE_IMM", 0xF000#16, 0x3000#16⟩,
  ⟨"SNE_IMM", 0xF000#16, 0x4000#16⟩,
  ⟨"SE_REG", 0xF00F#16, 0x5000#16⟩,
  ⟨"LD_IMM", 0xF000#16, 0x6000#16⟩,
  ⟨"ADD_IMM", 0xF000#16, 0x7000#16⟩,
  ⟨"LD_REG", 0xF00F#16, 0x8000#16⟩,
  ⟨"OR", 0xF00F#16, 0x8001#16⟩,
  ⟨"AND", 0xF00F#16, 0x8002#16⟩]

/-- Rows 13 to 24 of 30 R48. -/
def opcodeRows2 : List OpcodeRow := [
  ⟨"XOR", 0xF00F#16, 0x8003#16⟩,
  ⟨"ADD_REG", 0xF00F#16, 0x8004#16⟩,
  ⟨"SUB", 0xF00F#16, 0x8005#16⟩,
  ⟨"SHR", 0xF00F#16, 0x8006#16⟩,
  ⟨"SUBN", 0xF00F#16, 0x8007#16⟩,
  ⟨"SHL", 0xF00F#16, 0x800E#16⟩,
  ⟨"SNE_REG", 0xF00F#16, 0x9000#16⟩,
  ⟨"LD_I", 0xF000#16, 0xA000#16⟩,
  ⟨"JP_V0", 0xF000#16, 0xB000#16⟩,
  ⟨"RND", 0xF000#16, 0xC000#16⟩,
  ⟨"DRW", 0xF000#16, 0xD000#16⟩,
  ⟨"SKP", 0xF0FF#16, 0xE09E#16⟩]

/-- Rows 25 to 34 of 30 R48. -/
def opcodeRows3 : List OpcodeRow := [
  ⟨"SKNP", 0xF0FF#16, 0xE0A1#16⟩,
  ⟨"LD_VX_DT", 0xF0FF#16, 0xF007#16⟩,
  ⟨"LD_DT_VX", 0xF0FF#16, 0xF015#16⟩,
  ⟨"LD_ST_VX", 0xF0FF#16, 0xF018#16⟩,
  ⟨"ADD_I", 0xF0FF#16, 0xF01E#16⟩,
  ⟨"LD_VX_K", 0xF0FF#16, 0xF00A#16⟩,
  ⟨"LD_F", 0xF0FF#16, 0xF029#16⟩,
  ⟨"LD_B", 0xF0FF#16, 0xF033#16⟩,
  ⟨"ST_REGS", 0xF0FF#16, 0xF055#16⟩,
  ⟨"LD_REGS", 0xF0FF#16, 0xF065#16⟩]

/-- The 34 rows of the opcode map, in its order (30 R48). -/
def opcodeMap : List OpcodeRow := opcodeRows1 ++ opcodeRows2 ++ opcodeRows3

/-- An opcode is well-formed when some row of the opcode map admits it; every other one is illegal (30 R47, R49). -/
def opcodeWellFormed (op : Word) : Bool := opcodeMap.any fun r => r.admits op

/-- The row of the opcode map each instruction stands for (30 R48). -/
def Instr.row : Instr → OpcodeRow
  | .cls => ⟨"CLS", 0xFFFF#16, 0x00E0#16⟩
  | .ret => ⟨"RET", 0xFFFF#16, 0x00EE#16⟩
  | .jp _ => ⟨"JP", 0xF000#16, 0x1000#16⟩
  | .call _ => ⟨"CALL", 0xF000#16, 0x2000#16⟩
  | .seImm _ _ => ⟨"SE_IMM", 0xF000#16, 0x3000#16⟩
  | .sneImm _ _ => ⟨"SNE_IMM", 0xF000#16, 0x4000#16⟩
  | .seReg _ _ => ⟨"SE_REG", 0xF00F#16, 0x5000#16⟩
  | .ldImm _ _ => ⟨"LD_IMM", 0xF000#16, 0x6000#16⟩
  | .addImm _ _ => ⟨"ADD_IMM", 0xF000#16, 0x7000#16⟩
  | .ldReg _ _ => ⟨"LD_REG", 0xF00F#16, 0x8000#16⟩
  | .or _ _ => ⟨"OR", 0xF00F#16, 0x8001#16⟩
  | .and _ _ => ⟨"AND", 0xF00F#16, 0x8002#16⟩
  | .xor _ _ => ⟨"XOR", 0xF00F#16, 0x8003#16⟩
  | .addReg _ _ => ⟨"ADD_REG", 0xF00F#16, 0x8004#16⟩
  | .sub _ _ => ⟨"SUB", 0xF00F#16, 0x8005#16⟩
  | .shr _ _ => ⟨"SHR", 0xF00F#16, 0x8006#16⟩
  | .subn _ _ => ⟨"SUBN", 0xF00F#16, 0x8007#16⟩
  | .shl _ _ => ⟨"SHL", 0xF00F#16, 0x800E#16⟩
  | .sneReg _ _ => ⟨"SNE_REG", 0xF00F#16, 0x9000#16⟩
  | .ldI _ => ⟨"LD_I", 0xF000#16, 0xA000#16⟩
  | .jpV0 _ => ⟨"JP_V0", 0xF000#16, 0xB000#16⟩
  | .rnd _ _ => ⟨"RND", 0xF000#16, 0xC000#16⟩
  | .drw _ _ _ => ⟨"DRW", 0xF000#16, 0xD000#16⟩
  | .skp _ => ⟨"SKP", 0xF0FF#16, 0xE09E#16⟩
  | .sknp _ => ⟨"SKNP", 0xF0FF#16, 0xE0A1#16⟩
  | .ldVxDt _ => ⟨"LD_VX_DT", 0xF0FF#16, 0xF007#16⟩
  | .ldDtVx _ => ⟨"LD_DT_VX", 0xF0FF#16, 0xF015#16⟩
  | .ldStVx _ => ⟨"LD_ST_VX", 0xF0FF#16, 0xF018#16⟩
  | .addI _ => ⟨"ADD_I", 0xF0FF#16, 0xF01E#16⟩
  | .ldVxK _ => ⟨"LD_VX_K", 0xF0FF#16, 0xF00A#16⟩
  | .ldF _ => ⟨"LD_F", 0xF0FF#16, 0xF029#16⟩
  | .ldB _ => ⟨"LD_B", 0xF0FF#16, 0xF033#16⟩
  | .stRegs _ => ⟨"ST_REGS", 0xF0FF#16, 0xF055#16⟩
  | .ldRegs _ => ⟨"LD_REGS", 0xF0FF#16, 0xF065#16⟩

end Sys2Proof
end

