-- ==== Sys2Proof/Decode.lean ====
section
/-! DEFINITION. The decoder, total on any two bytes and rejecting by name, and after it the encoder. The
decoder is the two-level form of 30 R47 (top nibble, then the whole opcode, `n` or `nn`); the encoder lays
the fields of 30 R44 and R45 out with the literal nibbles of each format. -/

namespace Sys2Proof

/-- Why an opcode has no instruction. -/
inductive DecodeError where
  /-- The opcode matches no pattern (30 R49; 60 R107). -/
  | unknownOpcode (op : Word)
  deriving DecidableEq, Repr

/-- The opcode made of two consecutive bytes, the lower address in bits 15 to 8 (20 R32, 30 R43). -/
def opcodeOf (hi lo : Byte) : Word := hi ++ lo

/-- The top nibble, `opcode[15:12]` (30 R44). -/
def fieldTop (op : Word) : Nibble := op.extractLsb' 12 4

/-- The field `x`, `opcode[11:8]` (30 R44). -/
def fieldX (op : Word) : Reg := (op.extractLsb' 8 4).toFin

/-- The field `y`, `opcode[7:4]` (30 R44). -/
def fieldY (op : Word) : Reg := (op.extractLsb' 4 4).toFin

/-- The field `n`, `opcode[3:0]` (30 R44). -/
def fieldN (op : Word) : Nibble := op.extractLsb' 0 4

/-- The field `nn`, `opcode[7:0]` (30 R44). -/
def fieldNn (op : Word) : Byte := op.extractLsb' 0 8

/-- The field `nnn`, `opcode[11:0]` (30 R44). -/
def fieldNnn (op : Word) : Imm12 := op.extractLsb' 0 12

/-- Top nibble 0x0: the whole opcode must be 0x00E0 or 0x00EE (30 R47; 90 C5). -/
def decode0 (op : Word) : Except DecodeError Instr :=
  if op = 0x00E0#16 then .ok .cls
  else if op = 0x00EE#16 then .ok .ret
  else .error (.unknownOpcode op)

/-- Top nibble 0x5: the low nibble must be 0 (30 R47; 90 C5). -/
def decode5 (op : Word) : Except DecodeError Instr :=
  if fieldN op = 0#4 then .ok (.seReg (fieldX op) (fieldY op)) else .error (.unknownOpcode op)

/-- Top nibble 0x8: selected by `n` (30 R47, R48). -/
def decode8 (op : Word) : Except DecodeError Instr :=
  match (fieldN op).toNat with
  | 0x0 => .ok (.ldReg (fieldX op) (fieldY op))
  | 0x1 => .ok (.or (fieldX op) (fieldY op))
  | 0x2 => .ok (.and (fieldX op) (fieldY op))
  | 0x3 => .ok (.xor (fieldX op) (fieldY op))
  | 0x4 => .ok (.addReg (fieldX op) (fieldY op))
  | 0x5 => .ok (.sub (fieldX op) (fieldY op))
  | 0x6 => .ok (.shr (fieldX op) (fieldY op))
  | 0x7 => .ok (.subn (fieldX op) (fieldY op))
  | 0xE => .ok (.shl (fieldX op) (fieldY op))
  | _ => .error (.unknownOpcode op)

/-- Top nibble 0x9: the low nibble must be 0 (30 R47; 90 C5). -/
def decode9 (op : Word) : Except DecodeError Instr :=
  if fieldN op = 0#4 then .ok (.sneReg (fieldX op) (fieldY op)) else .error (.unknownOpcode op)

/-- Top nibble 0xE: selected by `nn` (30 R47, R48). -/
def decodeE (op : Word) : Except DecodeError Instr :=
  match (fieldNn op).toNat with
  | 0x9E => .ok (.skp (fieldX op))
  | 0xA1 => .ok (.sknp (fieldX op))
  | _ => .error (.unknownOpcode op)

/-- Top nibble 0xF: selected by `nn` (30 R47, R48). -/
def decodeF (op : Word) : Except DecodeError Instr :=
  match (fieldNn op).toNat with
  | 0x07 => .ok (.ldVxDt (fieldX op))
  | 0x0A => .ok (.ldVxK (fieldX op))
  | 0x15 => .ok (.ldDtVx (fieldX op))
  | 0x18 => .ok (.ldStVx (fieldX op))
  | 0x1E => .ok (.addI (fieldX op))
  | 0x29 => .ok (.ldF (fieldX op))
  | 0x33 => .ok (.ldB (fieldX op))
  | 0x55 => .ok (.stRegs (fieldX op))
  | 0x65 => .ok (.ldRegs (fieldX op))
  | _ => .error (.unknownOpcode op)

/-- The decoder: dispatch on the top nibble (30 R47). The last arm is for a top nibble above 15 and is
never reached. -/
def decode (op : Word) : Except DecodeError Instr :=
  match (fieldTop op).toNat with
  | 0x0 => decode0 op
  | 0x1 => .ok (.jp (fieldNnn op))
  | 0x2 => .ok (.call (fieldNnn op))
  | 0x3 => .ok (.seImm (fieldX op) (fieldNn op))
  | 0x4 => .ok (.sneImm (fieldX op) (fieldNn op))
  | 0x5 => decode5 op
  | 0x6 => .ok (.ldImm (fieldX op) (fieldNn op))
  | 0x7 => .ok (.addImm (fieldX op) (fieldNn op))
  | 0x8 => decode8 op
  | 0x9 => decode9 op
  | 0xA => .ok (.ldI (fieldNnn op))
  | 0xB => .ok (.jpV0 (fieldNnn op))
  | 0xC => .ok (.rnd (fieldX op) (fieldNn op))
  | 0xD => .ok (.drw (fieldX op) (fieldY op) (fieldN op))
  | 0xE => decodeE op
  | 0xF => decodeF op
  | _ => .error (.unknownOpcode op)

/-- The decoder on the two bytes as they lie in memory, the lower address first (30 R43). -/
def decodeBytes (hi lo : Byte) : Except DecodeError Instr := decode (opcodeOf hi lo)

/-- The opcode of the bits of spec/opcode_table.json: one 16-bit word, bits at or above `nbits` zero. -/
def tableOpcode (nbits w : Nat) : Word := BitVec.ofNat 16 (w % 2 ^ nbits)

/-- The high byte of an opcode, stored at the lower address (30 R43). -/
def highByte (op : Word) : Byte := op.extractLsb' 8 8

/-- The low byte of an opcode, stored at the higher address (30 R43). -/
def lowByte (op : Word) : Byte := op.extractLsb' 0 8

/-- The instruction the decoder reads from a table row's bits, laid out in memory order. -/
def decodeTableWord (nbits w : Nat) : Option Instr :=
  match decodeBytes (highByte (tableOpcode nbits w)) (lowByte (tableOpcode nbits w)) with
  | .ok i => some i
  | .error _ => none

/-- Format `NNN` (30 R45). -/
def encodeNNN (top : Nibble) (nnn : Imm12) : Word := top ++ nnn

/-- Format `XNN` (30 R45). -/
def encodeXNN (top : Nibble) (x : Reg) (nn : Byte) : Word := (top ++ BitVec.ofFin (w := 4) x) ++ nn

/-- Formats `XY` and `XYN`: four nibbles, the last one a literal or the field `n` (30 R45). -/
def encodeXYN (top : Nibble) (x y : Reg) (n : Nibble) : Word :=
  ((top ++ BitVec.ofFin (w := 4) x) ++ BitVec.ofFin (w := 4) y) ++ n

/-- The encoder: the 16-bit word of an instruction (30 R45, R48). -/
def encode : Instr → Word
  | .cls => 0x00E0#16
  | .ret => 0x00EE#16
  | .jp nnn => encodeNNN 0x1 nnn
  | .call nnn => encodeNNN 0x2 nnn
  | .seImm x nn => encodeXNN 0x3 x nn
  | .sneImm x nn => encodeXNN 0x4 x nn
  | .seReg x y => encodeXYN 0x5 x y 0x0
  | .ldImm x nn => encodeXNN 0x6 x nn
  | .addImm x nn => encodeXNN 0x7 x nn
  | .ldReg x y => encodeXYN 0x8 x y 0x0
  | .or x y => encodeXYN 0x8 x y 0x1
  | .and x y => encodeXYN 0x8 x y 0x2
  | .xor x y => encodeXYN 0x8 x y 0x3
  | .addReg x y => encodeXYN 0x8 x y 0x4
  | .sub x y => encodeXYN 0x8 x y 0x5
  | .shr x y => encodeXYN 0x8 x y 0x6
  | .subn x y => encodeXYN 0x8 x y 0x7
  | .shl x y => encodeXYN 0x8 x y 0xE
  | .sneReg x y => encodeXYN 0x9 x y 0x0
  | .ldI nnn => encodeNNN 0xA nnn
  | .jpV0 nnn => encodeNNN 0xB nnn
  | .rnd x nn => encodeXNN 0xC x nn
  | .drw x y n => encodeXYN 0xD x y n
  | .skp x => encodeXNN 0xE x 0x9E
  | .sknp x => encodeXNN 0xE x 0xA1
  | .ldVxDt x => encodeXNN 0xF x 0x07
  | .ldDtVx x => encodeXNN 0xF x 0x15
  | .ldStVx x => encodeXNN 0xF x 0x18
  | .addI x => encodeXNN 0xF x 0x1E
  | .ldVxK x => encodeXNN 0xF x 0x0A
  | .ldF x => encodeXNN 0xF x 0x29
  | .ldB x => encodeXNN 0xF x 0x33
  | .stRegs x => encodeXNN 0xF x 0x55
  | .ldRegs x => encodeXNN 0xF x 0x65

end Sys2Proof
end

