-- ==== Sys2Proof/Machine/Font.lean ====
section
/-! DEFINITION. The font table FONT (10 R23, R24). PRESUMED (log entry 2): the source gives no byte of it,
so the values are the default table of 10 R24, which the spec takes from general knowledge (92 D16). No
instruction's meaning depends on a value of this table; a claim about a drawn digit rests on it. -/

namespace Sys2Proof.Machine

/-- Glyphs 0 to 7, five bytes each, top row first (10 R24). -/
def fontLow : List Byte := [
  0xF0, 0x90, 0x90, 0x90, 0xF0,
  0x20, 0x60, 0x20, 0x20, 0x70,
  0xF0, 0x10, 0xF0, 0x80, 0xF0,
  0xF0, 0x10, 0xF0, 0x10, 0xF0,
  0x90, 0x90, 0xF0, 0x10, 0x10,
  0xF0, 0x80, 0xF0, 0x10, 0xF0,
  0xF0, 0x80, 0xF0, 0x90, 0xF0,
  0xF0, 0x10, 0x20, 0x40, 0x40]

/-- Glyphs 8 to F (10 R24). -/
def fontHigh : List Byte := [
  0xF0, 0x90, 0xF0, 0x90, 0xF0,
  0xF0, 0x90, 0xF0, 0x10, 0xF0,
  0xF0, 0x90, 0xF0, 0x90, 0x90,
  0xE0, 0x90, 0xE0, 0x90, 0xE0,
  0xF0, 0x80, 0x80, 0x80, 0xF0,
  0xE0, 0x90, 0x90, 0x90, 0xE0,
  0xF0, 0x80, 0xF0, 0x80, 0xF0,
  0xF0, 0x80, 0xF0, 0x80, 0x80]

/-- `FONT[k]` for `k` in 0 to 79 (10 R24). -/
def font (k : Nat) : Byte := (fontLow ++ fontHigh).getD k 0

end Sys2Proof.Machine
end

