-- ==== Sys2Proof/Machine/Memory.lean ====
section
/-! DEFINITION. The 4096-byte memory as plain data: the cells that differ from the reset contents, sorted
by address, and reading and writing one byte or a run of bytes (20 R28 to R31). Addresses are natural
numbers, never reduced modulo 4096 and never clamped (90 C2); the range check that raises the fault is
`rangeFault` in Ops.lean, made before any of these operations is used. -/

namespace Sys2Proof.Machine

/-- The cells that differ from the reset contents, addresses strictly rising. -/
abbrev Memory := List Host.Cell

/-- What an unlisted address reads as: the contents `reset` leaves, FONT at 0x050 to 0x09F and zero
everywhere else (10 R21, R25). -/
def resetByte (a : Nat) : Byte := if 0x050 ≤ a ∧ a ≤ 0x09F then font (a - 0x050) else 0

/-- The content of the cell at address `a` (20 R30). -/
def Memory.read : Memory → Nat → Byte
  | [], a => resetByte a
  | (k, b) :: m, a => if a < k then resetByte a else if a = k then b else Memory.read m a

/-- The cell `(a, v)` in front of `m`, left out when `v` is what `a` reads as anyway. -/
def Memory.cons (a : Nat) (v : Byte) (m : Memory) : Memory := if v = resetByte a then m else (a, v) :: m

/-- `Memory.write` for an address that exists: the sorted list with the cell at `a` holding `v`. -/
def Memory.insert : Memory → Nat → Byte → Memory
  | [], a, v => Memory.cons a v []
  | (k, b) :: m, a, v =>
    if a < k then Memory.cons a v ((k, b) :: m)
    else if a = k then Memory.cons a v m
    else (k, b) :: Memory.insert m a v

/-- Store of one byte (20 R31). An address of 4096 or more names no cell: nothing is stored, and no
instruction gets here with one, because the range check comes first (43 R87). Every existing cell can be
stored to, the font and the reserved cells included (20 R37; log entry 11). -/
def Memory.write (m : Memory) (a : Nat) (v : Byte) : Memory := if a < 4096 then Memory.insert m a v else m

/-- Store of consecutive bytes from `a` upward. The cells are distinct, so the order of the stores cannot
be seen (20 R33). -/
def Memory.writeBytes : Memory → Nat → List Byte → Memory
  | m, _, [] => m
  | m, a, b :: bs => Memory.write (Memory.writeBytes m (a + 1) bs) a b

/-- The `n` consecutive bytes from `a` upward. -/
def Memory.readBytes (m : Memory) (a n : Nat) : List Byte := (List.range n).map fun k => Memory.read m (a + k)

/-- The canonical form from address `lo` on: addresses rising and below 4096, no cell equal to the reset
contents. -/
def Memory.wfFrom : Nat → Memory → Bool
  | _, [] => true
  | lo, (k, b) :: m => decide (lo ≤ k) && decide (k < 4096) && (b != resetByte k) && Memory.wfFrom (k + 1) m

/-- Memory is in canonical form, so equal memories are equal data. -/
def Memory.wf (m : Memory) : Bool := Memory.wfFrom 0 m

end Sys2Proof.Machine
end

