-- ==== Sys2Proof/Machine/State.lean ====
section
/-! DEFINITION. The state of the machine: the eleven elements of 10 R10 and the counter of the free values
already drawn; its value after `reset` (10 R25); and the reasons a step can stop (60 R106 to R112). -/

namespace Sys2Proof.Machine

/-- The framebuffer, 32 rows of 64 one-bit cells: bit `x` of row `y` is cell `x + 64*y` (10 R22, 20 R38;
log entry 16). -/
abbrev Display := Vector (BitVec 64) 32

/-- The Machine State (10 R10). Plain data. -/
structure State where
  /-- 4096 cells of 8 bits (10 R21), as the cells that differ from the reset contents. -/
  memory : Memory
  /-- 2048 cells of one bit (10 R22). -/
  display : Display
  /-- The sixteen general registers; `V[0xF]` is VF (10 R11, R12). -/
  V : Vector Byte 16
  /-- The index register (10 R13). -/
  I : Word
  /-- The sixteen return addresses, not part of memory (10 R15). -/
  stack : Vector Word 16
  /-- How many stack entries are in use: `stackpointer + 1`, one of the two encodings 10 R16 allows. -/
  depth : Fin 17
  /-- The program counter (10 R14). -/
  pc : Word
  /-- The delay timer DT (10 R17). -/
  delayTimer : Byte
  /-- The sound timer ST (10 R18). -/
  soundTimer : Byte
  /-- The sixteen key flags, written by the host only (10 R19). -/
  keys : Vector Bool 16
  /-- True after a step that executed 00E0 or Dxyn (10 R20). -/
  drawFlag : Bool
  /-- THE MODEL'S OWN FIELD, not the spec's: how many random bytes Cxnn has drawn, the index of the next
  free value `Config.rnd` (log entry 1). -/
  draws : Nat
  deriving DecidableEq, Repr

/-- The state right after `reset`, every element as 10 R25 and 70 R126 state it; `draws` is the model's own
field and its value here is a DESIGN CHOICE (log entry 1). -/
def State.reset : State where
  memory := []
  display := Vector.replicate 32 0
  V := Vector.replicate 16 0
  I := 0
  stack := Vector.replicate 16 0
  depth := 0
  pc := 0x200
  delayTimer := 0
  soundTimer := 0
  keys := Vector.replicate 16 false
  drawFlag := false
  draws := 0

/-- The faults of 60 R107 to R112. A fault is the result of the operation, handed to the host; the state
stays what it was before the operation (00 R8). Every one of them is the spec's own. -/
inductive Fault where
  /-- 60 R107. Raised by `step` when the fetched opcode matches no pattern. Safe: the spec states it. -/
  | unknownOpcode (opcode : Word)
  /-- 60 R108. Raised by `loadProgram` when the image has more than 3584 bytes. Safe: the spec states it;
  the recorded length is the spec's decision D11 (log entry 13). -/
  | programTooLarge (len : Nat)
  /-- 60 R109. Raised by `step` at fetch, and by Dxyn, Fx33, Fx55 and Fx65, when a byte beyond 0xFFF is
  needed. Safe: the spec states it; the recorded address is the spec's decision D11 (log entry 13). -/
  | addressOutOfRange (addr : Nat)
  /-- 60 R110. Raised by 2nnn when sixteen entries are in use. Safe: the spec states it. -/
  | stackOverflow
  /-- 60 R111. Raised by 00EE when the stack is empty. Safe: the spec states it. -/
  | stackUnderflow
  /-- 60 R112. Raised by Ex9E and ExA1 when `V[x] > 15`. Safe: the spec adds this fault itself (decision
  D7, log entry 9), and stopping errs toward unprovable. -/
  | keyIndexOutOfRange (k : Byte)
  deriving DecidableEq, Repr

/-- Reasons the model gives an instruction no meaning. -/
inductive Refusal where
  /-- Raised by an arm of `exec` for an instruction that has no meaning yet. Safe: nothing is claimed of
  it. No arm raises it: all 34 instructions are modelled. -/
  | notModelled (mnemonic : String)
  deriving DecidableEq, Repr

end Sys2Proof.Machine
end

