-- ==== Sys2Proof/Machine/Ops.lean ====
section
/-! DEFINITION. The named operations of the machine: raising a fault, the range check, the stack, and the
phases of a step that surround the instruction: fetch, draw-flag clear and `pc` advance, timer tick
(40 R53 to R61). -/

namespace Sys2Proof.Machine

/-- The three outcomes of an operation (00 R8). -/
abbrev Result := Host.Outcome State Fault Refusal

/-- Raising a fault, the one exceptional event of this hardware: the operation ends with that fault and
commits nothing; no handler runs, nothing is saved, `pc` is not redirected (60 R106, R116; log entry 4).
There is no return from it inside the machine (60 R117). -/
def raise (f : Fault) : Result := .fault f

/-- `stackpointer`: the index of the top entry, -1 when the stack is empty (10 R16). -/
def State.stackpointer (s : State) : Int := (s.depth.val : Int) - 1

/-- The range check of 43 R87 and 40 R55 on the `len` cells from `base` up: a fault when the highest of
them is 4096 or more, recording the lowest such address. No cell, no fault. -/
def rangeFault (base len : Nat) : Option Fault :=
  if len ≠ 0 ∧ 4096 < base + len then some (.addressOutOfRange (max base 4096)) else none

/-- `body` after the range check: the check precedes every access (20 R31, 43 R87). -/
def withRange (base len : Nat) (body : Result) : Result :=
  match rangeFault base len with
  | some f => raise f
  | none => body

/-- The content of one memory cell (20 R30). -/
def State.readByte (s : State) (a : Nat) : Byte := Memory.read s.memory a

/-- The state with consecutive bytes stored from `a` upward and nothing else changed (20 R31). -/
def State.storeBytes (s : State) (a : Nat) (bs : List Byte) : State :=
  { s with memory := Memory.writeBytes s.memory a bs }

/-- Phase P1, fetch: the big-endian word at `pc`, or the fault when `pc + 1` is beyond memory
(40 R55, 20 R32). -/
def State.fetch (s : State) : Except Fault Word :=
  match rangeFault s.pc.toNat 2 with
  | some f => .error f
  | none => .ok (opcodeOf (s.readByte s.pc.toNat) (s.readByte (s.pc.toNat + 1)))

/-- Phases P0 and P2: the draw flag is cleared (40 R54) and `pc` advanced by 2 modulo 65536 (40 R56). -/
def State.beginStep (s : State) : State := { s with drawFlag := false, pc := s.pc + 2 }

/-- One timer's count: down by one when greater than zero, never below (40 R59). -/
def countDown (t : Byte) : Byte := if t = 0 then 0 else t - 1

/-- Phase P6, timer tick: both timers, independently (40 R59; log entry 15). -/
def State.tick (s : State) : State :=
  { s with delayTimer := countDown s.delayTimer, soundTimer := countDown s.soundTimer }

/-- The end of a step: a next state is ticked, a fault or a refusal is the step's own result (40 R61). -/
def finishStep (r : Result) : Result :=
  match r with
  | .next t => .next t.tick
  | .fault f => raise f
  | .refused q => .refused q

/-- The fault of an opcode that decodes to nothing (60 R107). -/
def decodeFault (e : DecodeError) : Fault :=
  match e with
  | .unknownOpcode op => .unknownOpcode op

/-- A write of the stack and of the number of entries in use (41 R65, R66). -/
def State.setStack (s : State) (stack : Vector Word 16) (depth : Fin 17) : State :=
  { s with stack := stack, depth := depth }

/-- Push for 2nnn: the entry after the top receives `pc`, and `depth` counts it; the fault when sixteen are
in use (41 R65). `body` continues with the pushed state. -/
def withPush (s : State) (body : State → Result) : Result :=
  if h : s.depth.val < 16 then
    body (s.setStack (s.stack.set s.depth.val s.pc h) ⟨s.depth.val + 1, by omega⟩)
  else raise .stackOverflow

/-- Pop for 00EE: `body` continues with the top entry and the state without it; the entry keeps its value;
the fault when the stack is empty (41 R66). -/
def withPop (s : State) (body : Word → State → Result) : Result :=
  match s.depth with
  | ⟨0, _⟩ => raise .stackUnderflow
  | ⟨d + 1, h⟩ => body (s.stack[d]'(by omega)) (s.setStack s.stack ⟨d, by omega⟩)

/-- A write of `pc`: no range or alignment check (41 R63). -/
def State.jumpTo (s : State) (target : Word) : State := { s with pc := target }

/-- A skip: 2 more is added to the already advanced `pc` when the condition holds (41 R63, R68). -/
def State.skipIf (s : State) (c : Bool) : State := if c then { s with pc := s.pc + 2 } else s

/-- The draw flag set (10 R20, 44 R94, R95). -/
def State.setDrawFlag (s : State) : State := { s with drawFlag := true }

/-- A write of the whole framebuffer (44 R94, R95). -/
def State.setDisplay (s : State) (d : Display) : State := { s with display := d }

/-- A write of the delay timer (45 R103). -/
def State.setDelayTimer (s : State) (v : Byte) : State := { s with delayTimer := v }

/-- A write of the sound timer (45 R104). -/
def State.setSoundTimer (s : State) (v : Byte) : State := { s with soundTimer := v }

/-- One more random byte drawn (log entry 1). -/
def State.countDraw (s : State) : State := { s with draws := s.draws + 1 }

/-- The next free value as the `rnd` of this step, and the state that has drawn it (42 R84; log entry 1). -/
def withRnd (s : State) (body : Byte → State → Result) : Result :=
  body (Config.rnd s.draws) s.countDraw

end Sys2Proof.Machine
end

