-- ==== Sys2Proof/Machine/Operands.lean ====
section
/-! DEFINITION. Operand forms: general registers (10 R11), the immediates widened to 16 bits (30 R46), keys
(10 R19) and pixels (10 R22, 20 R38). -/

namespace Sys2Proof.Machine

/-- Read of `V[x]` (10 R11). -/
def State.reg (s : State) (x : Reg) : Byte := s.V[x]

/-- Write of `V[x]`; all sixteen are ordinary storage (10 R11). -/
def State.setReg (s : State) (x : Reg) (v : Byte) : State := { s with V := s.V.set x v }

/-- The registers `V[0]` to `V[x]`, lowest first (43 R92). -/
def State.regsThrough (s : State) (x : Reg) : List Byte := s.V.toList.take (x.val + 1)

/-- Loads of `V[0]` to `V[x]` from consecutive bytes at `a`; the registers above `x` are unchanged
(43 R93). -/
def State.loadRegsThrough (s : State) (x : Reg) (a : Nat) : State :=
  { s with V := Vector.ofFn fun k : Reg => if k ≤ x then s.readByte (a + k.val) else s.V[k] }

/-- An address immediate, `zext_16(nnn)` (30 R46). -/
def addressOf (nnn : Imm12) : Word := nnn.setWidth 16

/-- A byte widened, `zext_16(v)` (00 R7). -/
def widen (v : Byte) : Word := v.setWidth 16

/-- Write of the index register (10 R13). -/
def State.setIndex (s : State) (v : Word) : State := { s with I := v }

/-- `body` with the key number in a register, which must be 0 to 15 (45 R99; 60 R112; log entry 9). -/
def withKey (v : Byte) (body : Reg → Result) : Result :=
  if h : v.toNat < 16 then body ⟨v.toNat, h⟩ else raise (.keyIndexOutOfRange v)

/-- Whether a key is held down (10 R19). -/
def State.keyDown (s : State) (k : Reg) : Bool := s.keys[k]

/-- The lowest-numbered key that is down (45 R101). -/
def State.lowestKey (s : State) : Option Reg := (List.finRange 16).find? fun k => s.keyDown k

/-- A register or key number as a byte. -/
def regByte (k : Reg) : Byte := BitVec.ofNat 8 k.val

/-- The pixel in column `px`, row `py` (20 R38). -/
def Display.pixel (d : Display) (px : Fin 64) (py : Fin 32) : Bool := d[py].getLsbD px

/-- The cell of index `i = px + 64*py` (10 R22, 20 R38). -/
def Display.cell (d : Display) (i : Fin 2048) : Bool :=
  Display.pixel d ⟨i.val % 64, by omega⟩ ⟨i.val / 64, by omega⟩

/-- XOR of one pixel with 1 (44 R95). -/
def Display.flip (d : Display) (px : Fin 64) (py : Fin 32) : Display :=
  d.set py (d[py] ^^^ BitVec.twoPow 64 px)

/-- Every cell 0 (44 R94). -/
def Display.clear : Display := Vector.replicate 32 0

end Sys2Proof.Machine
end

