-- ==== Sys2Proof/Machine/Alu.lean ====
section
/-! DEFINITION. Register loads, arithmetic, logic, shifts and the random byte (42 R72 to R86). Statements run
left to right, each complete before the next reads (40 R60; log entry 5). None of them can fault. -/

namespace Sys2Proof.Machine

/-- 6xnn: `V[x] <- nn` (42 R73). -/
def execLdImm (x : Reg) (nn : Byte) (s : State) : Result := .next (s.setReg x nn)

/-- 7xnn: `V[x] <- (V[x] + nn) mod 256`, VF not written as a flag (42 R74). -/
def execAddImm (x : Reg) (nn : Byte) (s : State) : Result :=
  .next (s.setReg x (BitVec.ofNat 8 (byteSum (s.reg x) nn)))

/-- 8xy0: `V[x] <- V[y]` (42 R75). -/
def execLdReg (x y : Reg) (s : State) : Result := .next (s.setReg x (s.reg y))

/-- 8xy1: `V[x] <- V[x] | V[y]` (42 R76). -/
def execOr (x y : Reg) (s : State) : Result := .next (s.setReg x (s.reg x ||| s.reg y))

/-- 8xy2: `V[x] <- V[x] & V[y]` (42 R77). -/
def execAnd (x y : Reg) (s : State) : Result := .next (s.setReg x (s.reg x &&& s.reg y))

/-- 8xy3: `V[x] <- V[x] ^ V[y]` (42 R78). -/
def execXor (x y : Reg) (s : State) : Result := .next (s.setReg x (s.reg x ^^^ s.reg y))

/-- 8xy4: `sum` is taken first, then VF, then `V[x]` (42 R79, R85). -/
def execAddReg (x y : Reg) (s : State) : Result :=
  let sum := byteSum (s.reg x) (s.reg y)
  let s1 := s.setReg VF (carryFlag (s.reg x) (s.reg y))
  .next (s1.setReg x (BitVec.ofNat 8 sum))

/-- 8xy5: VF first; the subtraction reads the registers after that write (42 R80, R85). -/
def execSub (x y : Reg) (s : State) : Result :=
  let s1 := s.setReg VF (noBorrowFlag (s.reg x) (s.reg y))
  .next (s1.setReg x (s1.reg x - s1.reg y))

/-- 8xy6: VF first; the shift reads `V[x]` after that write; `y` is ignored (42 R81, R85). -/
def execShr (x _y : Reg) (s : State) : Result :=
  let s1 := s.setReg VF (lowBitFlag (s.reg x))
  .next (s1.setReg x (s1.reg x >>> 1))

/-- 8xy7: VF first; the subtraction reads the registers after that write (42 R82, R85). -/
def execSubn (x y : Reg) (s : State) : Result :=
  let s1 := s.setReg VF (noBorrowFlag (s.reg y) (s.reg x))
  .next (s1.setReg x (s1.reg y - s1.reg x))

/-- 8xyE: VF first; the shift reads `V[x]` after that write; `y` is ignored (42 R83, R85). -/
def execShl (x _y : Reg) (s : State) : Result :=
  let s1 := s.setReg VF (highBitFlag (s.reg x))
  .next (s1.setReg x (s1.reg x <<< 1))

/-- Cxnn: `V[x] <- rnd & nn` with a fresh free value as `rnd` (42 R84; log entry 1). -/
def execRnd (x : Reg) (nn : Byte) (s : State) : Result :=
  withRnd s fun r s1 => .next (s1.setReg x (r &&& nn))

end Sys2Proof.Machine
end

