-- ==== Sys2Proof/Machine/ControlFlow.lean ====
section
/-! DEFINITION. Jumps, call, return and the conditional skips (41 R63 to R71). `pc` is the already advanced
value (40 R56); no target is checked when it is written (41 R63). -/

namespace Sys2Proof.Machine

/-- 00EE: pop `pc`; the fault when the stack is empty (41 R66). -/
def execRet (s : State) : Result := withPop s fun target s1 => .next (s1.jumpTo target)

/-- 1nnn: `pc <- zext_16(nnn)` (41 R64). -/
def execJp (nnn : Imm12) (s : State) : Result := .next (s.jumpTo (addressOf nnn))

/-- 2nnn: push `pc`, then jump; the fault when sixteen entries are in use (41 R65). -/
def execCall (nnn : Imm12) (s : State) : Result := withPush s fun s1 => .next (s1.jumpTo (addressOf nnn))

/-- 3xnn: skip if `V[x] = nn` (41 R68). -/
def execSeImm (x : Reg) (nn : Byte) (s : State) : Result := .next (s.skipIf (s.reg x == nn))

/-- 4xnn: skip if `V[x] != nn` (41 R69). -/
def execSneImm (x : Reg) (nn : Byte) (s : State) : Result := .next (s.skipIf (s.reg x != nn))

/-- 5xy0: skip if `V[x] = V[y]` (41 R70). -/
def execSeReg (x y : Reg) (s : State) : Result := .next (s.skipIf (s.reg x == s.reg y))

/-- 9xy0: skip if `V[x] != V[y]` (41 R71). -/
def execSneReg (x y : Reg) (s : State) : Result := .next (s.skipIf (s.reg x != s.reg y))

/-- Bnnn: `pc <- (zext_16(nnn) + zext_16(V[0])) mod 65536`, always register 0 (41 R67). -/
def execJpV0 (nnn : Imm12) (s : State) : Result := .next (s.jumpTo (addressOf nnn + widen (s.reg 0)))

end Sys2Proof.Machine
end

