-- ==== Sys2Proof/Machine/Display.lean ====
section
/-! DEFINITION. Clearing the display and the sprite XOR-blit with collision detection (44 R94 to R98). Both
coordinates wrap per pixel (90 C1). -/

namespace Sys2Proof.Machine

/-- 00E0: every cell 0, draw flag true (44 R94). -/
def execCls (s : State) : Result := .next (s.setDisplay Display.clear).setDrawFlag

/-- The pixels one sprite byte names in row `py`, from column `x0` on: bit `7 - col` for column `x0 + col`,
modulo 64 (44 R95). -/
def spriteRow (b : Byte) (x0 : Nat) (py : Fin 32) : List (Fin 64 × Fin 32) :=
  (List.range 8).filterMap fun col => if b.getLsbD (7 - col) then some (Fin.ofNat 64 (x0 + col), py) else none

/-- The pixels a sprite names, row by row from row `y` on, modulo 32 (44 R95). -/
def spritePixels : List Byte → Nat → Nat → List (Fin 64 × Fin 32)
  | [], _, _ => []
  | b :: rows, x0, y => spriteRow b x0 (Fin.ofNat 32 y) ++ spritePixels rows x0 (y + 1)

/-- One pixel of the blit: a cell that was on is a collision; the cell is XORed with 1 (44 R95). -/
def xorPixel (acc : Display × Bool) (p : Fin 64 × Fin 32) : Display × Bool :=
  (Display.flip acc.1 p.1 p.2, acc.2 || Display.pixel acc.1 p.1 p.2)

/-- The blit: the new display, and whether any pixel collided (44 R95). -/
def drawPixels (d : Display) (pixels : List (Fin 64 × Fin 32)) : Display × Bool :=
  pixels.foldl xorPixel (d, false)

/-- Dxyn: the draw flag is set and VF cleared, then both coordinates are read, once each, then the sprite's
range is checked and its pixels are XORed; VF ends as the collision flag (44 R95, R97; log entry 6). -/
def execDrw (x y : Reg) (n : Nibble) (s : State) : Result :=
  let s1 := s.setDrawFlag.setReg VF 0
  let x0 := (s1.reg x).toNat
  let y0 := (s1.reg y).toNat
  let drawn := drawPixels s1.display (spritePixels (Memory.readBytes s1.memory s1.I.toNat n.toNat) x0 y0)
  withRange s1.I.toNat n.toNat (.next ((s1.setDisplay drawn.1).setReg VF (flag drawn.2)))

end Sys2Proof.Machine
end

