-- ==== Sys2Proof/Machine/IndexMemory.lean ====
section
/-! DEFINITION. The index register and the memory transfers (43 R87 to R93). An effective address is `I + k`
without wrap-around; `I` is never modified by a memory access (43 R87). -/

namespace Sys2Proof.Machine

/-- Annn: `I <- zext_16(nnn)` (43 R88). -/
def execLdI (nnn : Imm12) (s : State) : Result := .next (s.setIndex (addressOf nnn))

/-- Fx1E: `I <- sum mod 4096`, then VF is set to 1 when the unmasked sum exceeds 0xFFF and otherwise left
as it was (43 R89; log entry 7). -/
def execAddI (x : Reg) (s : State) : Result :=
  let sum := indexSum s.I (s.reg x)
  let s1 := s.setIndex (BitVec.ofNat 16 (sum % 4096))
  .next (if 0xFFF < sum then s1.setReg VF 1 else s1)

/-- Fx29: `I <- 0x050 + 5 * V[x]` on the full byte (43 R90; log entry 8). -/
def execLdF (x : Reg) (s : State) : Result :=
  .next (s.setIndex (BitVec.ofNat 16 (0x050 + 5 * (s.reg x).toNat)))

/-- Fx33: the three decimal digits at `I`, `I+1`, `I+2` (43 R91). -/
def execLdB (x : Reg) (s : State) : Result :=
  withRange s.I.toNat 3 (.next (s.storeBytes s.I.toNat (decimalDigits (s.reg x))))

/-- Fx55: `memory[I..I+x] = V[0..x]` (43 R92). -/
def execStRegs (x : Reg) (s : State) : Result :=
  withRange s.I.toNat (x.val + 1) (.next (s.storeBytes s.I.toNat (s.regsThrough x)))

/-- Fx65: `V[0..x] = memory[I..I+x]` (43 R93). -/
def execLdRegs (x : Reg) (s : State) : Result :=
  withRange s.I.toNat (x.val + 1) (.next (s.loadRegsThrough x s.I.toNat))

end Sys2Proof.Machine
end

