-- ==== Sys2Proof/Machine/KeysTimers.lean ====
section
/-! DEFINITION. Key-conditional skips, the key wait and timer access (45 R99 to R105). The timer tick of the
step follows each (40 R59). -/

namespace Sys2Proof.Machine

/-- Ex9E: skip if the key `V[x]` is down; the fault when `V[x] > 15` (45 R99). -/
def execSkp (x : Reg) (s : State) : Result := withKey (s.reg x) fun k => .next (s.skipIf (s.keyDown k))

/-- ExA1: skip if the key `V[x]` is up; the fault when `V[x] > 15` (45 R100). -/
def execSknp (x : Reg) (s : State) : Result := withKey (s.reg x) fun k => .next (s.skipIf (!s.keyDown k))

/-- Fx0A: the lowest key that is down goes to `V[x]`; when none is, `pc` goes back by 2, to this
instruction's own address (45 R101). -/
def execLdVxK (x : Reg) (s : State) : Result :=
  match s.lowestKey with
  | some k => .next (s.setReg x (regByte k))
  | none => .next (s.jumpTo (s.pc - 2))

/-- Fx07: `V[x] <- DT`, the value before this step's tick (45 R102). -/
def execLdVxDt (x : Reg) (s : State) : Result := .next (s.setReg x s.delayTimer)

/-- Fx15: `DT <- V[x]` (45 R103). -/
def execLdDtVx (x : Reg) (s : State) : Result := .next (s.setDelayTimer (s.reg x))

/-- Fx18: `ST <- V[x]` (45 R104). -/
def execLdStVx (x : Reg) (s : State) : Result := .next (s.setSoundTimer (s.reg x))

end Sys2Proof.Machine
end

