-- ==== Sys2Proof/Machine/Step.lean ====
section
/-! DEFINITION. One step (40 R53): fetch, draw-flag clear and advance, decode, execute, timer tick. The
phases are the operations of Ops.lean; this file only puts them together. -/

namespace Sys2Proof.Machine

/-- `step`: exactly one instruction (40 R53). A fault of fetch, decode or execute is the whole result, and
the state stays what it was (40 R61). -/
def step (s : State) : Host.Outcome State Fault Refusal :=
  match s.fetch with
  | .error f => raise f
  | .ok op =>
    match decode op with
    | .error e => raise (decodeFault e)
    | .ok i => finishStep (exec i s.beginStep)

/-- `s` with the instruction of a table row's bits stored where `step` fetches next: its high byte at `pc`,
its low byte at `pc + 1` (30 R43). It stands for the part of `loadProgram` that puts one instruction there
(log entry 14); with `pc` above 0xFFE no instruction can be fetched (40 R55) and nothing reaches it. -/
def State.withFetchWord (s : State) (nbits w : Nat) : State :=
  s.storeBytes s.pc.toNat [highByte (tableOpcode nbits w), lowByte (tableOpcode nbits w)]

end Sys2Proof.Machine
end

