-- ==== Sys2Proof/Machine/HostOps.lean ====
section
/-! DEFINITION. The host's operations other than `step` (60 R123): `reset`, `loadProgram`, writing the keys,
and what the host reads between steps; the status codes of the faults (60 R113). -/

namespace Sys2Proof.Machine

/-- `reset`, from any state (70 R126). The model's own counter of free values goes on, so that the random
bytes after a reset are not the ones before it (log entry 1). -/
def resetOp (s : State) : Result := .next { State.reset with draws := s.draws }

/-- `loadProgram(bytes)`: the image is copied to 0x200 upward and nothing else changes; the fault when it
has more than 3584 bytes, and then nothing is copied (70 R128; log entry 12). -/
def loadProgram (bytes : List Byte) (s : State) : Result :=
  if 3584 < bytes.length then raise (.programTooLarge bytes.length) else .next (s.storeBytes 0x200 bytes)

/-- The host writes all sixteen key flags between steps (10 R19, 60 R123). -/
def writeKeys (keys : Vector Bool 16) (s : State) : Result := .next { s with keys := keys }

/-- One interaction of the host that may change the state (60 R123; there is no other, log entry 18). -/
inductive HostOp where
  /-- 70 R126. -/
  | reset
  /-- 70 R128. -/
  | loadProgram (bytes : List Byte)
  /-- 10 R19. -/
  | writeKeys (keys : Vector Bool 16)
  /-- 40 R53. -/
  | step
  deriving DecidableEq, Repr

/-- What a host interaction does. -/
def hostOp (op : HostOp) (s : State) : Result :=
  match op with
  | .reset => resetOp s
  | .loadProgram bytes => loadProgram bytes s
  | .writeKeys keys => writeKeys keys s
  | .step => step s

/-- What the host reads between steps (60 R123). -/
structure HostView where
  /-- 2048 cells, 0 or 1. -/
  display : Display
  /-- True if the last step executed 00E0 or Dxyn. -/
  drawFlag : Bool
  /-- While it is nonzero the host plays a tone. -/
  soundTimer : Byte
  /-- The other of the two timer values. -/
  delayTimer : Byte
  deriving DecidableEq, Repr

/-- The outputs of the core (60 R122, R123). -/
def State.hostView (s : State) : HostView := ⟨s.display, s.drawFlag, s.soundTimer, s.delayTimer⟩

/-- The status codes of 60 R113; 0 is Ok. -/
def Fault.code : Fault → Nat
  | .unknownOpcode _ => 1
  | .programTooLarge _ => 2
  | .addressOutOfRange _ => 3
  | .stackOverflow => 4
  | .stackUnderflow => 5
  | .keyIndexOutOfRange _ => 6

end Sys2Proof.Machine
end

