-- ==== Sys2Proof/Safety.lean ====
section
/-! DEFINITION. The terms the claims use: which instruction a state is about to execute, what a step leaves
unchanged, the invariant of reachable states (10 R26), the pixels a sprite covers (44 R95) and the end of a
run (70 R131). -/

namespace Sys2Proof

/-- The instructions that may change VF: the seven that write it as a flag, and every instruction that has it
among its destinations (10 R12, 42 R86). -/
def Instr.mayWriteVF : Instr → Bool
  | .addReg _ _ | .sub _ _ | .shr _ _ | .subn _ _ | .shl _ _ | .drw _ _ _ | .addI _ => true
  | .ldImm x _ | .addImm x _ | .rnd x _ => x == VF
  | .ldReg x _ | .or x _ | .and x _ | .xor x _ => x == VF
  | .ldVxDt x | .ldVxK x | .ldRegs x => x == VF
  | .cls | .ret | .jp _ | .call _ | .seImm _ _ | .sneImm _ _ | .seReg _ _ | .sneReg _ _ => false
  | .ldI _ | .jpV0 _ | .skp _ | .sknp _ | .ldDtVx _ | .ldStVx _ | .ldF _ | .ldB _ | .stRegs _ => false

end Sys2Proof

namespace Sys2Proof.Machine

/-- The instruction at `pc` is `i`: the two bytes there can be fetched and decode to it (40 R55, R58). -/
def State.executes (s : State) (i : Instr) : Prop := ∃ op, s.fetch = .ok op ∧ decode op = .ok i

/-- One independently readable part of the state: a register, a byte of memory, a pixel, a stack entry, or
one of the single elements of 10 R10 (`draws` is the model's own). -/
inductive Part where
  | reg (k : Reg)
  | byte (a : Nat)
  | pixel (px : Fin 64) (py : Fin 32)
  | entry (k : Reg)
  | key (k : Reg)
  | index
  | depth
  | pc
  | delayTimer
  | soundTimer
  | drawFlag
  | draws
  deriving DecidableEq, Repr

/-- The part reads the same in both states. -/
def Part.same (p : Part) (s t : State) : Prop :=
  match p with
  | .reg k => t.reg k = s.reg k
  | .byte a => t.readByte a = s.readByte a
  | .pixel px py => Display.pixel t.display px py = Display.pixel s.display px py
  | .entry k => t.stack[k] = s.stack[k]
  | .key k => t.keyDown k = s.keyDown k
  | .index => t.I = s.I
  | .depth => t.depth = s.depth
  | .pc => t.pc = s.pc
  | .delayTimer => t.delayTimer = s.delayTimer
  | .soundTimer => t.soundTimer = s.soundTimer
  | .drawFlag => t.drawFlag = s.drawFlag
  | .draws => t.draws = s.draws

/-- The frame: every part outside `changed` reads the same in both states. -/
def Frame (changed : Part → Prop) (s t : State) : Prop := ∀ p, ¬ changed p → Part.same p s t

/-- A byte of memory among the `len` bytes from `a` up. -/
def Part.inBytes (a len : Nat) (p : Part) : Prop := ∃ k, k < len ∧ p = .byte (a + k)

/-- The invariant of reachable states (10 R26): memory in canonical form, `I` at most 0xFFF, `pc` at most
0x10FE, and every stack entry in use at most 0x1000. Items 2 to 4 of 10 R26 hold by the types of the
fields. -/
def State.Inv (s : State) : Prop :=
  Memory.wf s.memory = true ∧ s.I.toNat ≤ 0xFFF ∧ s.pc.toNat ≤ 0x10FE ∧
    ∀ k : Reg, k.val < s.depth.val → s.stack[k].toNat ≤ 0x1000

/-- The states the host can bring about from reset (10 R26, 70 R129). A fault is terminal (log entry 4). -/
inductive Reachable : State → Prop where
  /-- The state right after reset. -/
  | reset : Reachable State.reset
  /-- The state after one more interaction that ended Ok. -/
  | next {s t : State} (op : HostOp) : Reachable s → hostOp op s = .next t → Reachable t

/-- Some 1 bit of the `n` sprite bytes at `I`, drawn from column `x0` and row `y0` with per-pixel wrap, lands
on pixel (px, py) (44 R95). -/
def State.spriteCovers (s : State) (x0 y0 n : Nat) (px : Fin 64) (py : Fin 32) : Prop :=
  ∃ row col : Nat, row < n ∧ col < 8 ∧ (s.readByte (s.I.toNat + row)).getLsbD (7 - col) = true ∧
    px.val = (x0 + col) % 64 ∧ py.val = (y0 + row) % 32

/-- `t` is `s` after a sprite of `n` rows has been drawn from column `x0` and row `y0`: the draw flag is true,
every covered pixel is inverted, VF is 1 exactly when a covered pixel was on, and nothing else changes
(44 R95). -/
def State.DrawnFrom (s : State) (x0 y0 n : Nat) (t : State) : Prop :=
  t.drawFlag = true ∧
  (∀ px py, s.spriteCovers x0 y0 n px py →
    Display.pixel t.display px py = !Display.pixel s.display px py) ∧
  ((∃ px py, s.spriteCovers x0 y0 n px py ∧ Display.pixel s.display px py = true) → t.reg VF = 1) ∧
  ((∀ px py, s.spriteCovers x0 y0 n px py → Display.pixel s.display px py = false) → t.reg VF = 0) ∧
  Frame (fun p => p = .drawFlag ∨ p = .reg VF ∨ ∃ px py, p = .pixel px py ∧ s.spriteCovers x0 y0 n px py) s t

/-- The instruction at `pc` is a jump to itself, the recommended end of a program (70 R131; log entry 17). -/
def State.atSelfJump (s : State) : Prop :=
  s.pc.toNat ≤ 0xFFE ∧ (s.readByte s.pc.toNat).toNat = 0x10 + s.pc.toNat / 256 ∧
    (s.readByte (s.pc.toNat + 1)).toNat = s.pc.toNat % 256

/-- `t` is reached from `s` by `k` successful steps none of which executes Fx15 (45 R105). -/
inductive QuietSteps : Nat → State → State → Prop where
  /-- No step. -/
  | none (s : State) : QuietSteps 0 s s
  /-- One more step, of an instruction other than Fx15. -/
  | more {k : Nat} {s t u : State} : QuietSteps k s t → step t = .next u →
      (∀ x, ¬ t.executes (.ldDtVx x)) → QuietSteps (k + 1) s u

/-- The same outcome but for the number of random bytes drawn. -/
def sameUpToDraws (r q : Result) : Prop :=
  match r, q with
  | .next s, .next t => { s with draws := 0 } = { t with draws := 0 }
  | .fault f, .fault g => f = g
  | .refused a, .refused b => a = b
  | _, _ => False

end Sys2Proof.Machine
end

