-- ==== Sys2Proof/Certificates/Slice0/Obligations.lean ====
section
/-! DEFINITION. The statements for the provers. Each docstring names the rules of the spec it formalises, and
the log entry where a clause rests on a decision of the spec (file 92) or of the model. A statement about
`exec` speaks of phase P5, where `pc` is already the advanced value (40 R56) and the timer tick is still to
come; `StepRunsDecodedInstruction` carries it to `step`. -/

open Sys2Proof Sys2Proof.Machine

/-! ## Decoding and encoding -/

/-- 30 R44, R45, R48: the decoder reads back every field of every instruction's word. -/
def Obligations.DecodeOfEncodeIsIdentity : Prop := ∀ i : Instr, decode (encode i) = .ok i

/-- 30 R45, R47, R48: every word that decodes is the encoding of what it decodes to. For 8xy6 and 8xyE, where any
`y` encodes the same operation (30 R45), this rests on the model's choice to keep the ignored field in the
constructor (log entry 19, DESIGN CHOICE); for the other 32 instructions it follows from their patterns. -/
def Obligations.EncodeOfDecodeIsIdentity : Prop := ∀ (op : Word) (i : Instr), decode op = .ok i → encode i = op

/-- 30 R47: the decoder selects the instruction whose (mask, match) pair the opcode satisfies, no opcode
satisfies two, and an opcode that satisfies none is unknown. -/
def Obligations.DecodeFollowsOpcodeMap : Prop :=
  (∀ (op : Word) (i : Instr), decode op = .ok i → i.row ∈ opcodeMap ∧ i.row.admits op = true) ∧
  (∀ op : Word, (∀ r ∈ opcodeMap, r.admits op = false) → decode op = .error (.unknownOpcode op)) ∧
  (∀ op : Word, ∀ r ∈ opcodeMap, r.admits op = true → ∃ i, decode op = .ok i ∧ i.row = r) ∧
  (∀ op : Word, ∀ r ∈ opcodeMap, ∀ q ∈ opcodeMap, r.admits op = true → q.admits op = true → r = q)

/-- 30 R49: the illegal opcodes are exactly those of its table, by top nibble. -/
def Obligations.UnknownEncodingsAreTheListedOnes : Prop :=
  ∀ op : Word, (∃ e, decode op = .error e) ↔
    (op.toNat / 4096 = 0x0 ∧ op.toNat ≠ 0x00E0 ∧ op.toNat ≠ 0x00EE) ∨
    (op.toNat / 4096 = 0x5 ∧ op.toNat % 16 ≠ 0) ∨
    (op.toNat / 4096 = 0x8 ∧ (8 ≤ op.toNat % 16 ∧ op.toNat % 16 ≤ 0xD ∨ op.toNat % 16 = 0xF)) ∨
    (op.toNat / 4096 = 0x9 ∧ op.toNat % 16 ≠ 0) ∨
    (op.toNat / 4096 = 0xE ∧ op.toNat % 256 ≠ 0x9E ∧ op.toNat % 256 ≠ 0xA1) ∨
    (op.toNat / 4096 = 0xF ∧ op.toNat % 256 ∉ [0x07, 0x0A, 0x15, 0x18, 0x1E, 0x29, 0x33, 0x55, 0x65])

/-- 95 section 2.6 and 30 R48: one word of each family, written out from its pattern. That the ignored `y` of
0x8AF6 is kept in the constructor is the model's choice (log entry 19, DESIGN CHOICE). -/
def Obligations.SampleWordsDecode : Prop :=
  decode 0x00EE#16 = .ok .ret ∧ decode 0x8AF6#16 = .ok (.shr 0xA 0xF) ∧ decode 0xABCD#16 = .ok (.ldI 0xBCD) ∧
  decode 0xD123#16 = .ok (.drw 1 2 3) ∧ decode 0xEF9E#16 = .ok (.skp 0xF) ∧ decode 0xF00A#16 = .ok (.ldVxK 0) ∧
  decode 0x0123#16 = .error (.unknownOpcode 0x0123)

/-! ## The step -/

/-- 40 R53, R54, R56, R58, R61: a step whose bytes decode to `i` runs exactly `i`, on the state with the draw
flag cleared and `pc` advanced by 2, and then ticks the timers (once per step is the spec's decision D9, log
entry 15); a fault of `i` is the step's result. -/
def Obligations.StepRunsDecodedInstruction : Prop :=
  ∀ (s : State) (i : Instr), s.executes i →
    (∀ u, exec i { s with drawFlag := false, pc := s.pc + 2 } = .next u → step s = .next u.tick) ∧
    (∀ f, exec i { s with drawFlag := false, pc := s.pc + 2 } = .fault f → step s = .fault f)

/-- 60 R107: an opcode that matches no pattern is the fault that records it. -/
def Obligations.StepFaultsOnUnknownOpcode : Prop :=
  ∀ (s : State) (op : Word), s.fetch = .ok op → (∀ r ∈ opcodeMap, r.admits op = false) →
    step s = .fault (.unknownOpcode op)

/-- 40 R55: no fetch when `pc + 1` is beyond memory. The recorded address is the spec's own decision D11
(log entry 13). -/
def Obligations.FetchFaultsBeyondMemory : Prop :=
  ∀ s : State, 4096 ≤ s.pc.toNat + 1 →
    step s = .fault (.addressOutOfRange (if 4096 ≤ s.pc.toNat then s.pc.toNat else s.pc.toNat + 1))

/-- 40 R55, 20 R32, R34: the opcode is the big-endian word at `pc`, whatever the parity of `pc`
(that an odd `pc` is legal is the spec's decision D13, log entry 10). -/
def Obligations.FetchReadsBigEndianWord : Prop :=
  ∀ s : State, s.pc.toNat + 1 < 4096 → ∃ op : Word, s.fetch = .ok op ∧
    op.toNat = 256 * (s.readByte s.pc.toNat).toNat + (s.readByte (s.pc.toNat + 1)).toNat

/-- 20 R42: the two bytes Fx55 stores where `pc` points are the opcode the very next fetch reads. -/
def Obligations.FetchSeesStoredRegisters : Prop :=
  ∀ (x k l : Reg) (s : State), Memory.wf s.memory = true → s.I.toNat + x.val < 4096 → l ≤ x →
    l.val = k.val + 1 → s.pc.toNat = s.I.toNat + k.val →
    ∃ t, exec (.stRegs x) s = .next t ∧ t.fetch = .ok (opcodeOf (s.reg k) (s.reg l))

/-- 60 R114: which instruction can raise what in its execute phase; the other 26 cannot fault, and no
instruction is refused. That Ex9E and ExA1 raise KeyIndexOutOfRange is a fault the spec adds itself, its decision
D7 (60 R112, log entry 9). -/
def Obligations.FaultsAreThoseOfTheInstruction : Prop :=
  ∀ (i : Instr) (s : State),
    (∀ q, exec i s ≠ .refused q) ∧
    ∀ f, exec i s = .fault f →
      (f = .stackOverflow ∧ ∃ nnn, i = .call nnn) ∨ (f = .stackUnderflow ∧ i = .ret) ∨
      ((∃ a, f = .addressOutOfRange a) ∧
        ((∃ x y n, i = .drw x y n) ∨ ∃ x, i = .ldB x ∨ i = .stRegs x ∨ i = .ldRegs x)) ∨
      ((∃ k, f = .keyIndexOutOfRange k) ∧ ∃ x, i = .skp x ∨ i = .sknp x)

/-- 40 R59: the tick counts each timer down by one, independently, stops at 0, and touches nothing else (that
it comes once per step is the spec's decision D9, log entry 15). -/
def Obligations.TickCountsBothTimersDown : Prop :=
  ∀ s : State, s.tick.delayTimer.toNat = s.delayTimer.toNat - 1 ∧
    s.tick.soundTimer.toNat = s.soundTimer.toNat - 1 ∧
    Frame (fun p => p = .delayTimer ∨ p = .soundTimer) s s.tick

/-- 45 R102 to R105: after a successful step a timer holds what Fx15 or Fx18 wrote, or else what it held
before, less one tick (log entry 15). -/
def Obligations.TimersAfterOneStep : Prop :=
  ∀ s t : State, step s = .next t →
    (∀ x, s.executes (.ldDtVx x) → t.delayTimer.toNat = (s.reg x).toNat - 1) ∧
    ((∀ x, ¬ s.executes (.ldDtVx x)) → t.delayTimer.toNat = s.delayTimer.toNat - 1) ∧
    (∀ x, s.executes (.ldStVx x) → t.soundTimer.toNat = (s.reg x).toNat - 1) ∧
    ((∀ x, ¬ s.executes (.ldStVx x)) → t.soundTimer.toNat = s.soundTimer.toNat - 1)

/-- 45 R105: after `k` steps none of which writes the delay timer it holds `max(d - k, 0)` (one tick per step is
the spec's decision D9, log entry 15). -/
def Obligations.DelayTimerAfterQuietSteps : Prop :=
  ∀ (k : Nat) (s t : State), QuietSteps k s t → t.delayTimer.toNat = s.delayTimer.toNat - k

/-! ## Invariants and whole-machine rules -/

/-- 10 R26: every step keeps the invariant, from every state that meets it. -/
def Obligations.InvariantKeptByStep : Prop := ∀ s t : State, s.Inv → step s = .next t → t.Inv

/-- 10 R25, R26: the invariant holds after reset. -/
def Obligations.ResetMeetsInvariant : Prop := State.reset.Inv

/-- 10 R26: the invariant holds in every state reachable by resets, program loads, key writes and steps (that the
host does nothing else to the state is the spec's decision D20, log entry 18). -/
def Obligations.ReachableStatesMeetInvariant : Prop := ∀ s : State, Reachable s → s.Inv

/-- 10 R19: no instruction writes the keys. -/
def Obligations.NoStepWritesKeys : Prop := ∀ s t : State, step s = .next t → ∀ k, t.keyDown k = s.keyDown k

/-- 20 R29: in a step, only Fx33 and Fx55 write memory. -/
def Obligations.OnlyTwoInstructionsWriteMemory : Prop :=
  ∀ s t : State, step s = .next t → (∀ x, ¬ s.executes (.ldB x)) → (∀ x, ¬ s.executes (.stRegs x)) →
    ∀ a, t.readByte a = s.readByte a

/-- 10 R15, R16: only 2nnn writes a stack entry, the one after the top, and only 2nnn and 00EE move the stack
pointer, by one. -/
def Obligations.StackWrittenOnlyByCall : Prop :=
  ∀ s t : State, step s = .next t →
    (∀ k : Reg, t.stack[k] ≠ s.stack[k] → k.val = s.depth.val ∧ ∃ nnn, s.executes (.call nnn)) ∧
    (t.depth ≠ s.depth → (t.depth.val = s.depth.val + 1 ∧ ∃ nnn, s.executes (.call nnn)) ∨
      (t.depth.val + 1 = s.depth.val ∧ s.executes .ret))

/-- 10 R12, 42 R86: VF changes only by an instruction that writes it as a flag or has it as destination. -/
def Obligations.VfChangedOnlyByItsWriters : Prop :=
  ∀ (i : Instr) (s t : State), exec i s = .next t → i.mayWriteVF = false → t.reg VF = s.reg VF

/-- 44 R98: after a step the draw flag is true exactly when the step executed 00E0 or Dxyn, and after any
other step the display is unchanged. -/
def Obligations.DrawFlagTellsWhetherTheStepDrew : Prop :=
  ∀ s t : State, step s = .next t →
    (t.drawFlag = true ↔ s.executes .cls ∨ ∃ x y n, s.executes (.drw x y n)) ∧
    (t.drawFlag = false → ∀ px py, Display.pixel t.display px py = Display.pixel s.display px py)

/-- 40 R62: the random input matters only to Cxnn. The index of the next random byte, the model's own field
(log entry 1), changes nothing else of any other step. -/
def Obligations.RandomInputMattersOnlyToRnd : Prop :=
  ∀ (s : State) (n : Nat), (∀ x nn, ¬ s.executes (.rnd x nn)) →
    sameUpToDraws (step s) (step { s with draws := n })

/-- 70 R131: at a jump to itself every step changes nothing but the timers and the draw flag, and the
machine is at the same jump again (the definition is the spec's decision D15, log entry 17; that each timer counts
down once in the step is its decision D9, log entry 15). -/
def Obligations.SelfJumpChangesOnlyTimers : Prop :=
  ∀ s : State, s.atSelfJump → ∃ t, step s = .next t ∧ t.atSelfJump ∧ t.drawFlag = false ∧
    t.delayTimer.toNat = s.delayTimer.toNat - 1 ∧ t.soundTimer.toNat = s.soundTimer.toNat - 1 ∧
    Frame (fun p => p = .delayTimer ∨ p = .soundTimer ∨ p = .drawFlag) s t

/-! ## Reset and program load -/

/-- 70 R126, R127: reset leaves every element as stated, from any state; a second reset changes nothing; and
a step with nothing loaded faults on the opcode 0x0000. `State.reset` is such a state. FONT stands for itself;
no value of it is claimed. -/
def Obligations.ResetInstallsEveryElement : Prop :=
  resetOp State.reset = .next State.reset ∧ ∀ s : State, ∃ t, resetOp s = .next t ∧
    (∀ a, a < 4096 → t.readByte a = if 0x050 ≤ a ∧ a ≤ 0x09F then font (a - 0x050) else 0) ∧
    (∀ i, Display.cell t.display i = false) ∧ (∀ k : Reg, t.stack[k] = 0) ∧ (∀ k, t.reg k = 0) ∧
    (∀ k, t.keyDown k = false) ∧ t.pc = 0x200 ∧ t.I = 0 ∧ t.depth.val = 0 ∧ t.delayTimer = 0 ∧
    t.soundTimer = 0 ∧ t.drawFlag = false ∧ resetOp t = .next t ∧ step t = .fault (.unknownOpcode 0x0000)

/-- 70 R128: the image is copied to 0x200 upward and nothing else changes; one of more than 3584 bytes is
refused with the fault. That the copy is defined on any state is the spec's decision D21 (log entry 12), the
recorded length D11 (log entry 13). -/
def Obligations.LoadProgramCopiesTheImage : Prop :=
  ∀ (bytes : List Byte) (s : State),
    (bytes.length ≤ 3584 → Memory.wf s.memory = true → ∃ t, loadProgram bytes s = .next t ∧
      (∀ k, k < bytes.length → t.readByte (0x200 + k) = bytes.getD k 0) ∧
      Frame (Part.inBytes 0x200 bytes.length) s t) ∧
    (3584 < bytes.length → loadProgram bytes s = .fault (.programTooLarge bytes.length))

/-! ## Control flow -/

/-- 41 R64, 1nnn: `pc` is the immediate; a target of 0xFFF is accepted and the next fetch faults (the recorded
address 0x1000 is the spec's decision D11, log entry 13). -/
def Obligations.JpJumps : Prop :=
  ∀ (nnn : Imm12) (s : State), encode (.jp nnn) &&& 0xF000#16 = 0x1000#16 ∧
    ∃ t, exec (.jp nnn) s = .next t ∧ t.pc.toNat = nnn.toNat ∧ Frame (fun p => p = .pc) s t ∧
      (nnn = 0xFFF#12 → t.fetch = .error (.addressOutOfRange 0x1000))

/-- 41 R65, 60 R110, 2nnn: the entry after the top receives `pc` and `pc` becomes the immediate; with sixteen
entries in use it faults. -/
def Obligations.CallPushesAndJumps : Prop :=
  ∀ (nnn : Imm12) (s : State), encode (.call nnn) &&& 0xF000#16 = 0x2000#16 ∧
    (∀ k : Reg, s.depth.val = k.val → ∃ t, exec (.call nnn) s = .next t ∧ t.stack[k] = s.pc ∧
      t.depth.val = s.depth.val + 1 ∧ t.pc.toNat = nnn.toNat ∧
      Frame (fun p => p = .entry k ∨ p = .depth ∨ p = .pc) s t) ∧
    (s.depth.val = 16 → exec (.call nnn) s = .fault .stackOverflow)

/-- 41 R66, 60 R111, 00EE: `pc` is the top entry, which keeps its value; on an empty stack it faults. -/
def Obligations.RetPops : Prop :=
  encode .ret = 0x00EE#16 ∧ ∀ s : State,
    (∀ k : Reg, s.depth.val = k.val + 1 → ∃ t, exec .ret s = .next t ∧ t.pc = s.stack[k] ∧
      t.depth.val = k.val ∧ Frame (fun p => p = .depth ∨ p = .pc) s t) ∧
    (s.depth.val = 0 → exec .ret s = .fault .stackUnderflow)

/-- 41 R66 (the document's test property): a return after a call, with the stack as the call left it, goes to
the instruction after the call and restores the stack pointer. -/
def Obligations.RetAfterCallReturns : Prop :=
  ∀ (nnn : Imm12) (s : State), s.depth.val < 16 → ∃ t, exec (.call nnn) s = .next t ∧
    ∀ u : State, u.stack = t.stack → u.depth = t.depth →
      ∃ v, exec .ret u = .next v ∧ v.pc = s.pc ∧ v.depth = s.depth

/-- 41 R67, Bnnn: `pc` is the immediate plus V0, not reduced modulo 4096; a sum of 0xFFF or more makes the
next fetch fault (the recorded address is the spec's decision D11, log entry 13). -/
def Obligations.JpV0AddsRegisterZero : Prop :=
  ∀ (nnn : Imm12) (s : State), encode (.jpV0 nnn) &&& 0xF000#16 = 0xB000#16 ∧
    ∃ t, exec (.jpV0 nnn) s = .next t ∧ t.pc.toNat = nnn.toNat + (s.reg 0).toNat ∧
      Frame (fun p => p = .pc) s t ∧
      (0xFFF ≤ nnn.toNat + (s.reg 0).toNat →
        t.fetch = .error (.addressOutOfRange (max (nnn.toNat + (s.reg 0).toNat) 0x1000)))

/-- 41 R68, R69, 3xnn and 4xnn: 2 more is added to `pc` when the register equals, or differs from, the
immediate. -/
def Obligations.ImmediateSkips : Prop :=
  ∀ (x : Reg) (nn : Byte) (s : State),
    encode (.seImm x nn) &&& 0xF000#16 = 0x3000#16 ∧ encode (.sneImm x nn) &&& 0xF000#16 = 0x4000#16 ∧
    (∃ t, exec (.seImm x nn) s = .next t ∧
      t.pc.toNat = (if (s.reg x).toNat = nn.toNat then (s.pc.toNat + 2) % 65536 else s.pc.toNat) ∧
      Frame (fun p => p = .pc) s t) ∧
    (∃ t, exec (.sneImm x nn) s = .next t ∧
      t.pc.toNat = (if (s.reg x).toNat ≠ nn.toNat then (s.pc.toNat + 2) % 65536 else s.pc.toNat) ∧
      Frame (fun p => p = .pc) s t)

/-- 41 R70, R71, 5xy0 and 9xy0: 2 more is added to `pc` when the registers are equal, or differ. -/
def Obligations.RegisterSkips : Prop :=
  ∀ (x y : Reg) (s : State),
    encode (.seReg x y) &&& 0xF00F#16 = 0x5000#16 ∧ encode (.sneReg x y) &&& 0xF00F#16 = 0x9000#16 ∧
    (∃ t, exec (.seReg x y) s = .next t ∧
      t.pc.toNat = (if (s.reg x).toNat = (s.reg y).toNat then (s.pc.toNat + 2) % 65536 else s.pc.toNat) ∧
      Frame (fun p => p = .pc) s t) ∧
    (∃ t, exec (.sneReg x y) s = .next t ∧
      t.pc.toNat = (if (s.reg x).toNat ≠ (s.reg y).toNat then (s.pc.toNat + 2) % 65536 else s.pc.toNat) ∧
      Frame (fun p => p = .pc) s t)

/-! ## Registers and arithmetic -/

/-- 42 R73, 6xnn: the register is the immediate. -/
def Obligations.LdImmLoadsTheImmediate : Prop :=
  ∀ (x : Reg) (nn : Byte) (s : State), encode (.ldImm x nn) &&& 0xF000#16 = 0x6000#16 ∧
    ∃ t, exec (.ldImm x nn) s = .next t ∧ t.reg x = nn ∧ Frame (fun p => p = .reg x) s t

/-- 42 R74, 7xnn: addition modulo 256; VF is written only as the destination. -/
def Obligations.AddImmWrapsWithoutFlag : Prop :=
  ∀ (x : Reg) (nn : Byte) (s : State), encode (.addImm x nn) &&& 0xF000#16 = 0x7000#16 ∧
    ∃ t, exec (.addImm x nn) s = .next t ∧ (t.reg x).toNat = ((s.reg x).toNat + nn.toNat) % 256 ∧
      Frame (fun p => p = .reg x) s t

/-- 42 R75, 8xy0: the register is a copy of the other. -/
def Obligations.LdRegCopies : Prop :=
  ∀ (x y : Reg) (s : State), encode (.ldReg x y) &&& 0xF00F#16 = 0x8000#16 ∧
    ∃ t, exec (.ldReg x y) s = .next t ∧ t.reg x = s.reg y ∧ Frame (fun p => p = .reg x) s t

/-- 42 R76 to R78, 8xy1, 8xy2, 8xy3: bitwise, and VF is not written as a flag. -/
def Obligations.LogicIsBitwiseWithoutFlag : Prop :=
  ∀ (x y : Reg) (s : State), encode (.or x y) &&& 0xF00F#16 = 0x8001#16 ∧
    encode (.and x y) &&& 0xF00F#16 = 0x8002#16 ∧ encode (.xor x y) &&& 0xF00F#16 = 0x8003#16 ∧
    (∃ t, exec (.or x y) s = .next t ∧ Frame (fun p => p = .reg x) s t ∧
      ∀ k, (t.reg x).getLsbD k = ((s.reg x).getLsbD k || (s.reg y).getLsbD k)) ∧
    (∃ t, exec (.and x y) s = .next t ∧ Frame (fun p => p = .reg x) s t ∧
      ∀ k, (t.reg x).getLsbD k = ((s.reg x).getLsbD k && (s.reg y).getLsbD k)) ∧
    (∃ t, exec (.xor x y) s = .next t ∧ Frame (fun p => p = .reg x) s t ∧
      ∀ k, (t.reg x).getLsbD k = ((s.reg x).getLsbD k ^^ (s.reg y).getLsbD k))

/-- 42 R79, R85, 8xy4: the sum modulo 256, and the carry in VF unless VF is the destination. The order of the
two writes, seen when `x = 0xF`, is the spec's decision D4 (log entry 5). -/
def Obligations.AddRegSetsCarry : Prop :=
  ∀ (x y : Reg) (s : State), encode (.addReg x y) &&& 0xF00F#16 = 0x8004#16 ∧
    ∃ t, exec (.addReg x y) s = .next t ∧
      (t.reg x).toNat = ((s.reg x).toNat + (s.reg y).toNat) % 256 ∧
      (x ≠ VF → (t.reg VF).toNat = if 255 < (s.reg x).toNat + (s.reg y).toNat then 1 else 0) ∧
      Frame (fun p => p = .reg x ∨ p = .reg VF) s t

/-- 42 R80, R85, 8xy5: with `f` the not-borrow, VF becomes `f` first and the difference reads it where an
operand is VF. That order is the spec's decision D4 (log entry 5). -/
def Obligations.SubSetsNotBorrow : Prop :=
  ∀ (x y : Reg) (s : State), encode (.sub x y) &&& 0xF00F#16 = 0x8005#16 ∧
    ∃ t, exec (.sub x y) s = .next t ∧ ∃ f : Nat,
      f = (if (s.reg y).toNat ≤ (s.reg x).toNat then 1 else 0) ∧
      (t.reg x).toNat = ((if x = VF then f else (s.reg x).toNat) + 256
        - (if y = VF then f else (s.reg y).toNat)) % 256 ∧
      (x ≠ VF → (t.reg VF).toNat = f) ∧ Frame (fun p => p = .reg x ∨ p = .reg VF) s t

/-- 42 R82, R85, 8xy7: the reverse difference, otherwise as 8xy5 (the order is decision D4, log entry 5). -/
def Obligations.SubnSetsNotBorrow : Prop :=
  ∀ (x y : Reg) (s : State), encode (.subn x y) &&& 0xF00F#16 = 0x8007#16 ∧
    ∃ t, exec (.subn x y) s = .next t ∧ ∃ f : Nat,
      f = (if (s.reg x).toNat ≤ (s.reg y).toNat then 1 else 0) ∧
      (t.reg x).toNat = ((if y = VF then f else (s.reg y).toNat) + 256
        - (if x = VF then f else (s.reg x).toNat)) % 256 ∧
      (x ≠ VF → (t.reg VF).toNat = f) ∧ Frame (fun p => p = .reg x ∨ p = .reg VF) s t

/-- 42 R81, R83, 8xy6 and 8xyE with `x` not VF: shifts by one of V[x] alone, VF is the bit shifted out, and
`y` is ignored. `ShiftsOfTheFlagRegister` is the case `x = 0xF`. -/
def Obligations.ShiftsSetTheBitShiftedOut : Prop :=
  ∀ (x y : Reg) (s : State), x ≠ VF →
    encode (.shr x y) &&& 0xF00F#16 = 0x8006#16 ∧ encode (.shl x y) &&& 0xF00F#16 = 0x800E#16 ∧
    (∃ t, exec (.shr x y) s = .next t ∧ (t.reg x).toNat = (s.reg x).toNat / 2 ∧
      (t.reg VF).toNat = (s.reg x).toNat % 2 ∧ Frame (fun p => p = .reg x ∨ p = .reg VF) s t) ∧
    (∃ t, exec (.shl x y) s = .next t ∧ (t.reg x).toNat = (s.reg x).toNat * 2 % 256 ∧
      (t.reg VF).toNat = (s.reg x).toNat / 128 ∧ Frame (fun p => p = .reg x ∨ p = .reg VF) s t)

/-- 42 R85: the shifts with `x = 0xF`, whatever `y`: the flag is written first and then shifted, so VF ends 0
after 8Fy6 and twice its old bit 7 after 8FyE (decision D4, log entry 5). -/
def Obligations.ShiftsOfTheFlagRegister : Prop :=
  ∀ (y : Reg) (s : State),
    (∃ t, exec (.shr VF y) s = .next t ∧ t.reg VF = 0 ∧ Frame (fun p => p = .reg VF) s t) ∧
    (∃ t, exec (.shl VF y) s = .next t ∧ (t.reg VF).toNat = 2 * ((s.reg VF).toNat / 128) ∧
      Frame (fun p => p = .reg VF) s t)

/-- 42 R84, Cxnn: the register is a random byte masked by the immediate. The random byte is a free value
(decision D8, log entry 1): nothing is known of `Config.rnd`, so this holds for every value of it. -/
def Obligations.RndMasksAFreeByte : Prop :=
  ∀ (x : Reg) (nn : Byte) (s : State), encode (.rnd x nn) &&& 0xF000#16 = 0xC000#16 ∧
    ∃ t, exec (.rnd x nn) s = .next t ∧ t.reg x = Config.rnd s.draws &&& nn ∧
      (∀ k, nn.getLsbD k = false → (t.reg x).getLsbD k = false) ∧ t.draws = s.draws + 1 ∧
      Frame (fun p => p = .reg x ∨ p = .draws) s t

/-! ## Index register and memory -/

/-- 43 R88, Annn: the index register is the immediate. -/
def Obligations.LdILoadsTheAddress : Prop :=
  ∀ (nnn : Imm12) (s : State), encode (.ldI nnn) &&& 0xF000#16 = 0xA000#16 ∧
    ∃ t, exec (.ldI nnn) s = .next t ∧ t.I.toNat = nnn.toNat ∧ Frame (fun p => p = .index) s t

/-- 43 R89, Fx1E: the index register modulo 4096; VF is 1 when the unmasked sum exceeds 0xFFF and otherwise
unchanged, which is the spec's decision D6 (log entry 7). -/
def Obligations.AddIWrapsAt4096 : Prop :=
  ∀ (x : Reg) (s : State), encode (.addI x) &&& 0xF0FF#16 = 0xF01E#16 ∧
    ∃ t, exec (.addI x) s = .next t ∧ t.I.toNat = (s.I.toNat + (s.reg x).toNat) % 4096 ∧
      t.reg VF = (if 0xFFF < s.I.toNat + (s.reg x).toNat then 1 else s.reg VF) ∧
      Frame (fun p => p = .index ∨ p = .reg VF) s t

/-- 43 R90, Fx29: the index register is 0x050 plus five times the register, on the full byte, which above 15
is the spec's decision D19 (log entry 8). -/
def Obligations.LdFPointsAtTheGlyph : Prop :=
  ∀ (x : Reg) (s : State), encode (.ldF x) &&& 0xF0FF#16 = 0xF029#16 ∧
    ∃ t, exec (.ldF x) s = .next t ∧ t.I.toNat = 0x050 + 5 * (s.reg x).toNat ∧
      Frame (fun p => p = .index) s t

/-- 43 R91, Fx33: the three decimal digits at `I`, `I+1`, `I+2`, and no other byte; a fault when `I` is 0xFFE
or more. -/
def Obligations.LdBStoresDecimalDigits : Prop :=
  ∀ (x : Reg) (s : State), encode (.ldB x) &&& 0xF0FF#16 = 0xF033#16 ∧
    (s.I.toNat + 2 < 4096 → Memory.wf s.memory = true → ∃ t, exec (.ldB x) s = .next t ∧
      (t.readByte s.I.toNat).toNat = (s.reg x).toNat / 100 ∧
      (t.readByte (s.I.toNat + 1)).toNat = (s.reg x).toNat / 10 % 10 ∧
      (t.readByte (s.I.toNat + 2)).toNat = (s.reg x).toNat % 10 ∧
      Frame (Part.inBytes s.I.toNat 3) s t) ∧
    (4096 ≤ s.I.toNat + 2 → ∃ a, exec (.ldB x) s = .fault (.addressOutOfRange a))

/-- 43 R92, Fx55: the bytes from `I` to `I+x` are the registers V0 to Vx, and no other byte changes; a fault
when `I + x` exceeds 0xFFF. -/
def Obligations.StRegsStoresRegisters : Prop :=
  ∀ (x : Reg) (s : State), encode (.stRegs x) &&& 0xF0FF#16 = 0xF055#16 ∧
    (s.I.toNat + x.val < 4096 → Memory.wf s.memory = true → ∃ t, exec (.stRegs x) s = .next t ∧
      (∀ k : Reg, k ≤ x → t.readByte (s.I.toNat + k.val) = s.reg k) ∧
      Frame (Part.inBytes s.I.toNat (x.val + 1)) s t) ∧
    (4096 ≤ s.I.toNat + x.val → ∃ a, exec (.stRegs x) s = .fault (.addressOutOfRange a))

/-- 43 R93, Fx65: the registers V0 to Vx are the bytes from `I` to `I+x`, and nothing else changes; a fault
when `I + x` exceeds 0xFFF. -/
def Obligations.LdRegsLoadsRegisters : Prop :=
  ∀ (x : Reg) (s : State), encode (.ldRegs x) &&& 0xF0FF#16 = 0xF065#16 ∧
    (s.I.toNat + x.val < 4096 → ∃ t, exec (.ldRegs x) s = .next t ∧
      (∀ k : Reg, k ≤ x → t.reg k = s.readByte (s.I.toNat + k.val)) ∧
      Frame (fun p => ∃ k : Reg, k ≤ x ∧ p = .reg k) s t) ∧
    (4096 ≤ s.I.toNat + x.val → ∃ a, exec (.ldRegs x) s = .fault (.addressOutOfRange a))

/-- 43 R93 (the document's round-trip property): Fx65 after Fx55 with the same `x` and `I`, and no store in
between, gives back the registers, whatever they hold by then. -/
def Obligations.StoreThenLoadRestoresRegisters : Prop :=
  ∀ (x : Reg) (s : State), s.I.toNat + x.val < 4096 → Memory.wf s.memory = true →
    ∃ t, exec (.stRegs x) s = .next t ∧ ∀ u : State, u.memory = t.memory → u.I = s.I →
      ∃ v, exec (.ldRegs x) u = .next v ∧ ∀ k : Reg, k ≤ x → v.reg k = s.reg k

/-- 43 R87, 44 R95, 60 R109: an access beyond 0xFFF faults with the lowest address of the range that is 4096
or more; the recorded address is the spec's decision D11 (log entry 13). -/
def Obligations.RangeFaultRecordsLowestAddress : Prop :=
  ∀ (x y : Reg) (n : Nibble) (s : State),
    (4096 < s.I.toNat + 3 → exec (.ldB x) s = .fault (.addressOutOfRange (max s.I.toNat 4096))) ∧
    (4096 < s.I.toNat + (x.val + 1) →
      exec (.stRegs x) s = .fault (.addressOutOfRange (max s.I.toNat 4096)) ∧
      exec (.ldRegs x) s = .fault (.addressOutOfRange (max s.I.toNat 4096))) ∧
    (n ≠ 0 → 4096 < s.I.toNat + n.toNat →
      exec (.drw x y n) s = .fault (.addressOutOfRange (max s.I.toNat 4096)))

/-! ## Display -/

/-- 44 R94, 00E0: every cell is off, the draw flag is true, and nothing else changes. -/
def Obligations.ClsClearsTheDisplay : Prop :=
  encode .cls = 0x00E0#16 ∧ ∀ s : State, ∃ t, exec .cls s = .next t ∧
    (∀ i, Display.cell t.display i = false) ∧ t.drawFlag = true ∧
    Frame (fun p => p = .drawFlag ∨ ∃ px py, p = .pixel px py) s t

/-- 44 R95, Dxyn with neither coordinate in VF: the sprite's pixels are XORed, with both coordinates wrapping
per pixel; VF is the collision flag; a fault when the last row is beyond 0xFFF.
`DrwReadsClearedFlagAsCoordinate` is the case of VF as a coordinate. -/
def Obligations.DrwXorsTheSprite : Prop :=
  ∀ (x y : Reg) (n : Nibble) (s : State), x ≠ VF → y ≠ VF →
    encode (.drw x y n) &&& 0xF000#16 = 0xD000#16 ∧
    (n.toNat = 0 ∨ s.I.toNat + n.toNat ≤ 4096 → ∃ t, exec (.drw x y n) s = .next t ∧
      s.DrawnFrom (s.reg x).toNat (s.reg y).toNat n.toNat t) ∧
    (1 ≤ n.toNat → 4096 ≤ s.I.toNat + n.toNat - 1 →
      ∃ a, exec (.drw x y n) s = .fault (.addressOutOfRange a))

/-- 44 R97, Dxyn with `x = 0xF` or `y = 0xF`: VF is cleared before the coordinates are read, so a coordinate
taken from it is 0 (the spec's decisions D4 and D5, log entry 6). -/
def Obligations.DrwReadsClearedFlagAsCoordinate : Prop :=
  ∀ (x y : Reg) (n : Nibble) (s : State), x = VF ∨ y = VF →
    n.toNat = 0 ∨ s.I.toNat + n.toNat ≤ 4096 → ∃ t, exec (.drw x y n) s = .next t ∧
      s.DrawnFrom (if x = VF then 0 else (s.reg x).toNat) (if y = VF then 0 else (s.reg y).toNat) n.toNat t

/-- 44 R96 (4): the same sprite drawn twice at the same place restores the display; on a display that was
clear, the second draw sets VF when the sprite has a 1 bit. That the two draws are at the same place also when a
coordinate is VF, which the first draw writes, is the spec's decision D5 (44 R97, log entry 6). -/
def Obligations.DrawingTwiceRestoresTheDisplay : Prop :=
  ∀ (x y : Reg) (n : Nibble) (s : State), n.toNat = 0 ∨ s.I.toNat + n.toNat ≤ 4096 →
    ∃ t u, exec (.drw x y n) s = .next t ∧ exec (.drw x y n) t = .next u ∧ u.display = s.display ∧
      ((∀ px py, Display.pixel s.display px py = false) →
        (∃ row col, row < n.toNat ∧ col < 8 ∧
          (s.readByte (s.I.toNat + row)).getLsbD (7 - col) = true) → u.reg VF = 1)

/-! ## Keys and timers -/

/-- 45 R99, R100, Ex9E and ExA1: 2 more is added to `pc` when the key is down, or up; a register above 15 is
the fault that the spec adds itself (decision D7, log entry 9). -/
def Obligations.KeySkips : Prop :=
  ∀ (x : Reg) (s : State),
    encode (.skp x) &&& 0xF0FF#16 = 0xE09E#16 ∧ encode (.sknp x) &&& 0xF0FF#16 = 0xE0A1#16 ∧
    (∀ k : Reg, (s.reg x).toNat = k.val →
      (∃ t, exec (.skp x) s = .next t ∧
        t.pc.toNat = (if s.keyDown k = true then (s.pc.toNat + 2) % 65536 else s.pc.toNat) ∧
        Frame (fun p => p = .pc) s t) ∧
      (∃ t, exec (.sknp x) s = .next t ∧
        t.pc.toNat = (if s.keyDown k = false then (s.pc.toNat + 2) % 65536 else s.pc.toNat) ∧
        Frame (fun p => p = .pc) s t)) ∧
    (15 < (s.reg x).toNat → exec (.skp x) s = .fault (.keyIndexOutOfRange (s.reg x)) ∧
      exec (.sknp x) s = .fault (.keyIndexOutOfRange (s.reg x)))

/-- 45 R101, Fx0A: the lowest key that is down goes to the register; with none down `pc` goes back to this
instruction, and the step is otherwise a normal one: the draw flag is cleared and the timers tick (the tick is
the spec's decision D9, log entry 15). -/
def Obligations.KeyWaitTakesLowestOrRetries : Prop :=
  ∀ (x : Reg) (s : State), encode (.ldVxK x) &&& 0xF0FF#16 = 0xF00A#16 ∧
    (∀ k : Reg, s.keyDown k = true → (∀ j : Reg, j < k → s.keyDown j = false) →
      ∃ t, exec (.ldVxK x) s = .next t ∧ (t.reg x).toNat = k.val ∧ Frame (fun p => p = .reg x) s t) ∧
    ((∀ k, s.keyDown k = false) →
      (∃ t, exec (.ldVxK x) s = .next t ∧ t.pc.toNat = (s.pc.toNat + 65534) % 65536 ∧
        Frame (fun p => p = .pc) s t) ∧
      (s.executes (.ldVxK x) → ∃ t, step s = .next t ∧ t.drawFlag = false ∧
        t.delayTimer.toNat = s.delayTimer.toNat - 1 ∧ t.soundTimer.toNat = s.soundTimer.toNat - 1 ∧
        Frame (fun p => p = .drawFlag ∨ p = .delayTimer ∨ p = .soundTimer) s t))

/-- 45 R102 to R104, Fx07, Fx15, Fx18: the register is the delay timer as it was before this step's tick; the
timer is the register, and the tick of the same step follows (that it does is the spec's decision D9, log
entry 15). -/
def Obligations.TimerAccess : Prop :=
  ∀ (x : Reg) (s : State),
    encode (.ldVxDt x) &&& 0xF0FF#16 = 0xF007#16 ∧ encode (.ldDtVx x) &&& 0xF0FF#16 = 0xF015#16 ∧
    encode (.ldStVx x) &&& 0xF0FF#16 = 0xF018#16 ∧
    (∃ t, exec (.ldVxDt x) s = .next t ∧ t.reg x = s.delayTimer ∧ Frame (fun p => p = .reg x) s t) ∧
    (∃ t, exec (.ldDtVx x) s = .next t ∧ t.delayTimer = s.reg x ∧ Frame (fun p => p = .delayTimer) s t) ∧
    (∃ t, exec (.ldStVx x) s = .next t ∧ t.soundTimer = s.reg x ∧ Frame (fun p => p = .soundTimer) s t) ∧
    (s.executes (.ldVxDt x) → ∃ t, step s = .next t ∧ t.reg x = s.delayTimer ∧
      t.delayTimer.toNat = s.delayTimer.toNat - 1) ∧
    (s.executes (.ldDtVx x) → ∃ t, step s = .next t ∧ t.delayTimer.toNat = (s.reg x).toNat - 1) ∧
    (s.executes (.ldStVx x) → ∃ t, step s = .next t ∧ t.soundTimer.toNat = (s.reg x).toNat - 1)
end

