-- ==== Sys2Proof/Laws/Decode.lean ====
section
/-! SUPPORT. The encoded words as numbers, and the fields of an encoded word: one lemma per format and field
(30 R44, R45). -/

namespace Sys2Proof

/-- The number of a concatenation. -/
theorem toNat_append_eq {v w : Nat} (a : BitVec v) (b : BitVec w) :
    (a ++ b).toNat = a.toNat * 2 ^ w + b.toNat := by
  rw [BitVec.toNat_append, ← Nat.shiftLeft_add_eq_or_of_lt b.isLt, Nat.shiftLeft_eq]

/-- A word of format NNN as a number. -/
theorem toNat_encodeNNN (t : Nibble) (nnn : Imm12) :
    (encodeNNN t nnn).toNat = t.toNat * 4096 + nnn.toNat := toNat_append_eq t nnn

/-- A word of format XNN as a number. -/
theorem toNat_encodeXNN (t : Nibble) (x : Reg) (nn : Byte) :
    (encodeXNN t x nn).toNat = t.toNat * 4096 + x.val * 256 + nn.toNat := by
  refine (toNat_append_eq (t ++ BitVec.ofFin (w := 4) x) nn).trans ?_
  rw [toNat_append_eq, show (BitVec.ofFin (w := 4) x).toNat = x.val from rfl]
  omega

/-- A word of format XY or XYN as a number. -/
theorem toNat_encodeXYN (t : Nibble) (x y : Reg) (n : Nibble) :
    (encodeXYN t x y n).toNat = t.toNat * 4096 + x.val * 256 + y.val * 16 + n.toNat := by
  refine (toNat_append_eq ((t ++ BitVec.ofFin (w := 4) x) ++ BitVec.ofFin (w := 4) y) n).trans ?_
  rw [toNat_append_eq, toNat_append_eq, show (BitVec.ofFin (w := 4) x).toNat = x.val from rfl,
    show (BitVec.ofFin (w := 4) y).toNat = y.val from rfl]
  omega

/-- The top nibble as a number. -/
theorem toNat_fieldTop (op : Word) : (fieldTop op).toNat = op.toNat / 4096 := by
  have := op.isLt
  simp only [fieldTop, BitVec.extractLsb'_toNat, Nat.shiftRight_eq_div_pow]
  omega

/-- The field `x` as a number. -/
theorem val_fieldX (op : Word) : (fieldX op).val = op.toNat / 256 % 16 := by
  exact (BitVec.extractLsb'_toNat 8 4 op).trans (by rw [Nat.shiftRight_eq_div_pow])

/-- The field `y` as a number. -/
theorem val_fieldY (op : Word) : (fieldY op).val = op.toNat / 16 % 16 := by
  exact (BitVec.extractLsb'_toNat 4 4 op).trans (by rw [Nat.shiftRight_eq_div_pow])

/-- The field `n` as a number. -/
theorem toNat_fieldN (op : Word) : (fieldN op).toNat = op.toNat % 16 := by
  simp [fieldN]

/-- The field `nn` as a number. -/
theorem toNat_fieldNn (op : Word) : (fieldNn op).toNat = op.toNat % 256 := by
  simp [fieldNn]

/-- The field `nnn` as a number. -/
theorem toNat_fieldNnn (op : Word) : (fieldNnn op).toNat = op.toNat % 4096 := by
  simp [fieldNnn]

section
variable (t : Nibble) (nnn : Imm12) (x y : Reg) (nn : Byte) (n : Nibble)

@[simp] theorem fieldTop_encodeNNN : fieldTop (encodeNNN t nnn) = t := by
  apply BitVec.eq_of_toNat_eq
  rw [toNat_fieldTop, toNat_encodeNNN]; omega

@[simp] theorem fieldNnn_encodeNNN : fieldNnn (encodeNNN t nnn) = nnn := by
  apply BitVec.eq_of_toNat_eq
  rw [toNat_fieldNnn, toNat_encodeNNN]; omega

@[simp] theorem fieldTop_encodeXNN : fieldTop (encodeXNN t x nn) = t := by
  apply BitVec.eq_of_toNat_eq
  rw [toNat_fieldTop, toNat_encodeXNN]; omega

@[simp] theorem fieldX_encodeXNN : fieldX (encodeXNN t x nn) = x := by
  apply Fin.ext
  rw [val_fieldX, toNat_encodeXNN]; omega

@[simp] theorem fieldNn_encodeXNN : fieldNn (encodeXNN t x nn) = nn := by
  apply BitVec.eq_of_toNat_eq
  rw [toNat_fieldNn, toNat_encodeXNN]; omega

@[simp] theorem fieldTop_encodeXYN : fieldTop (encodeXYN t x y n) = t := by
  apply BitVec.eq_of_toNat_eq
  rw [toNat_fieldTop, toNat_encodeXYN]; omega

@[simp] theorem fieldX_encodeXYN : fieldX (encodeXYN t x y n) = x := by
  apply Fin.ext
  rw [val_fieldX, toNat_encodeXYN]; omega

@[simp] theorem fieldY_encodeXYN : fieldY (encodeXYN t x y n) = y := by
  apply Fin.ext
  rw [val_fieldY, toNat_encodeXYN]; omega

@[simp] theorem fieldN_encodeXYN : fieldN (encodeXYN t x y n) = n := by
  apply BitVec.eq_of_toNat_eq
  rw [toNat_fieldN, toNat_encodeXYN]; omega

end

/-- The two bytes of an opcode, put together again, are the opcode (30 R43). -/
theorem opcodeOf_bytes (op : Word) : opcodeOf (highByte op) (lowByte op) = op := by
  apply BitVec.eq_of_toNat_eq
  have := op.isLt
  rw [opcodeOf, toNat_append_eq]
  simp only [highByte, lowByte, BitVec.extractLsb'_toNat, Nat.shiftRight_eq_div_pow]
  omega

/-- The literal bits of a row with mask 0xF000: the top nibble. -/
theorem and_mask_F000 (op : Word) : op &&& 0xF000#16 = (fieldTop op).setWidth 16 <<< 12 := by
  ext i hi
  simp only [fieldTop, BitVec.getElem_and, BitVec.getElem_shiftLeft]
  interval_cases i <;> simp

/-- The literal bits of a row with mask 0xF00F: the top nibble and `n`. -/
theorem and_mask_F00F (op : Word) :
    op &&& 0xF00F#16 = (fieldTop op).setWidth 16 <<< 12 ||| (fieldN op).setWidth 16 := by
  ext i hi
  simp only [fieldTop, fieldN, BitVec.getElem_and, BitVec.getElem_or, BitVec.getElem_shiftLeft]
  interval_cases i <;> simp

/-- The literal bits of a row with mask 0xF0FF: the top nibble and `nn`. -/
theorem and_mask_F0FF (op : Word) :
    op &&& 0xF0FF#16 = (fieldTop op).setWidth 16 <<< 12 ||| (fieldNn op).setWidth 16 := by
  ext i hi
  simp only [fieldTop, fieldNn, BitVec.getElem_and, BitVec.getElem_or, BitVec.getElem_shiftLeft]
  interval_cases i <;> simp

/-- A nibble moved to the top of a word, as a number. -/
theorem toNat_topNibble (t : Nibble) : (t.setWidth 16 <<< 12 : Word).toNat = t.toNat * 4096 := by
  revert t; decide

/-- A nibble at the top and a byte at the bottom of a word, as a number. -/
theorem toNat_topNibble_or (t : Nibble) (b : Byte) :
    (t.setWidth 16 <<< 12 ||| b.setWidth 16 : Word).toNat = t.toNat * 4096 + b.toNat := by
  have h := Nat.shiftLeft_add_eq_or_of_lt (b := b.toNat) (i := 12) (by omega) t.toNat
  rw [BitVec.toNat_or, toNat_topNibble, BitVec.toNat_setWidth, Nat.mod_eq_of_lt (by omega),
    show t.toNat * 4096 = t.toNat <<< 12 by rw [Nat.shiftLeft_eq], ← h]

/-- The literal bits of mask 0xF000 as a number. -/
theorem toNat_and_F000 (op : Word) : (op &&& 0xF000#16).toNat = op.toNat / 4096 * 4096 := by
  rw [and_mask_F000, toNat_topNibble, toNat_fieldTop]

/-- The literal bits of mask 0xF00F as a number. -/
theorem toNat_and_F00F (op : Word) :
    (op &&& 0xF00F#16).toNat = op.toNat / 4096 * 4096 + op.toNat % 16 := by
  have h : ∀ t n : Nibble, (t.setWidth 16 <<< 12 ||| n.setWidth 16 : Word).toNat = t.toNat * 4096 + n.toNat := by
    decide
  rw [and_mask_F00F, h, toNat_fieldTop, toNat_fieldN]

/-- The literal bits of mask 0xF0FF as a number. -/
theorem toNat_and_F0FF (op : Word) :
    (op &&& 0xF0FF#16).toNat = op.toNat / 4096 * 4096 + op.toNat % 256 := by
  rw [and_mask_F0FF, toNat_topNibble_or, toNat_fieldTop, toNat_fieldNn]

end Sys2Proof
end

