-- ==== Sys2Proof/Laws/Display.lean ====
section
/-! SUPPORT. The laws of the framebuffer: one pixel XORed, a list of distinct pixels XORed, and which pixels
a sprite names. -/

namespace Sys2Proof.Machine

/-- One pixel after a XOR of one pixel. -/
theorem Display.pixel_flip (d : Display) (px qx : Fin 64) (py qy : Fin 32) :
    Display.pixel (Display.flip d px py) qx qy =
      (Display.pixel d qx qy ^^ decide (qx = px ∧ qy = py)) := by
  simp only [Display.pixel, Display.flip, Fin.getElem_fin, Vector.getElem_set]
  by_cases hy : qy = py
  · subst hy
    simp [Fin.ext_iff, eq_comm]
  · have : ¬ (py : Nat) = qy := fun e => hy (Fin.ext e.symm)
    simp [hy, this]

/-- A cleared display has every pixel off. -/
@[simp] theorem Display.pixel_clear (px : Fin 64) (py : Fin 32) :
    Display.pixel Display.clear px py = false := by
  simp [Display.pixel, Display.clear]

/-- Two displays with the same pixels are the same. -/
theorem Display.ext_pixel {d e : Display} (h : ∀ px py, Display.pixel d px py = Display.pixel e px py) :
    d = e := by
  apply Vector.ext
  intro y hy
  apply BitVec.eq_of_getLsbD_eq
  intro x hx
  exact h ⟨x, hx⟩ ⟨y, hy⟩

/-- The blit of distinct pixels: each named pixel is XORed once, and the collision is with the display as it
was before. -/
theorem foldl_xorPixel (ps : List (Fin 64 × Fin 32)) (hn : ps.Nodup) (d : Display) (c : Bool) :
    (∀ px py, Display.pixel (ps.foldl xorPixel (d, c)).1 px py =
      (Display.pixel d px py ^^ decide ((px, py) ∈ ps))) ∧
    (ps.foldl xorPixel (d, c)).2 = (c || ps.any fun p => Display.pixel d p.1 p.2) := by
  induction ps generalizing d c with
  | nil => simp
  | cons p ps ih =>
    obtain ⟨hp, hn'⟩ := List.nodup_cons.mp hn
    obtain ⟨h1, h2⟩ := ih hn' (Display.flip d p.1 p.2) (c || Display.pixel d p.1 p.2)
    rw [List.foldl_cons, show xorPixel (d, c) p = (Display.flip d p.1 p.2, c || Display.pixel d p.1 p.2) from rfl]
    refine ⟨fun px py => ?_, ?_⟩
    · rw [h1, Display.pixel_flip]
      by_cases he : (px, py) = p
      · subst he; simp [hp]
      · have : ¬ (px = p.1 ∧ py = p.2) := fun ⟨a, b⟩ => he (Prod.ext a b)
        simp [he, this]
    · rw [h2, List.any_cons, Bool.or_assoc]
      congr 2
      refine Bool.eq_iff_iff.mpr ?_
      simp only [List.any_eq_true]
      refine exists_congr fun q => and_congr_right fun hq => ?_
      have : ¬ (q.1 = p.1 ∧ q.2 = p.2) := fun ⟨a, b⟩ => hp (Prod.ext a b ▸ hq)
      rw [Display.pixel_flip]; simp [this]

/-- The pixels named by one sprite byte. -/
theorem mem_spriteRow (b : Byte) (x0 : Nat) (py : Fin 32) (p : Fin 64 × Fin 32) :
    p ∈ spriteRow b x0 py ↔
      ∃ col, col < 8 ∧ b.getLsbD (7 - col) = true ∧ p.1.val = (x0 + col) % 64 ∧ p.2 = py := by
  obtain ⟨qx, qy⟩ := p
  simp only [spriteRow, List.mem_filterMap, List.mem_range, Option.ite_none_right_eq_some, Option.some.injEq,
    Prod.mk.injEq, Fin.ext_iff, Fin.val_ofNat]
  constructor <;> rintro ⟨c, h1, h2, h3, h4⟩ <;> exact ⟨c, h1, h2, h3.symm, h4.symm⟩

/-- The pixels named by a sprite: 44 R95's formula. -/
theorem mem_spritePixels (rows : List Byte) (x0 y : Nat) (p : Fin 64 × Fin 32) :
    p ∈ spritePixels rows x0 y ↔ ∃ row col, row < rows.length ∧ col < 8 ∧
      (rows.getD row 0).getLsbD (7 - col) = true ∧ p.1.val = (x0 + col) % 64 ∧ p.2.val = (y + row) % 32 := by
  induction rows generalizing y with
  | nil => simp [spritePixels]
  | cons b rows ih =>
    simp only [spritePixels, List.mem_append, mem_spriteRow, ih, List.length_cons]
    constructor
    · rintro (⟨col, h1, h2, h3, h4⟩ | ⟨row, col, h0, h1, h2, h3, h4⟩)
      · exact ⟨0, col, by omega, h1, by simpa using h2, h3, by rw [h4]; simp⟩
      · exact ⟨row + 1, col, by omega, h1, by simpa using h2, h3, by rw [h4]; congr 1; omega⟩
    · rintro ⟨row, col, h0, h1, h2, h3, h4⟩
      cases row with
      | zero => exact .inl ⟨col, h1, by simpa using h2, h3, Fin.ext (by simpa using h4)⟩
      | succ row => exact .inr ⟨row, col, by omega, h1, by simpa using h2, h3, by rw [h4]; congr 1; omega⟩

/-- One sprite byte names no pixel twice, since 8 <= 64 (44 R96). -/
theorem nodup_spriteRow (b : Byte) (x0 : Nat) (py : Fin 32) : (spriteRow b x0 py).Nodup := by
  rw [spriteRow, List.Nodup, List.pairwise_filterMap]
  refine List.Pairwise.imp_of_mem (fun {c c'} hc hc' hne p hp p' hp' he => ?_) List.nodup_range
  simp only [List.mem_range] at hc hc'
  simp only [Option.ite_none_right_eq_some, Option.some.injEq] at hp hp'
  have := congrArg (fun q : Fin 64 × Fin 32 => q.1.val) (hp.2.trans (he.trans hp'.2.symm))
  simp only [Fin.val_ofNat] at this
  omega

/-- A sprite of at most 32 rows names no pixel twice (44 R96). -/
theorem nodup_spritePixels (rows : List Byte) (x0 y : Nat) (h : rows.length ≤ 32) :
    (spritePixels rows x0 y).Nodup := by
  induction rows generalizing y with
  | nil => simp [spritePixels]
  | cons b rows ih =>
    simp only [List.length_cons] at h
    refine List.nodup_append.mpr ⟨nodup_spriteRow _ _ _, ih _ (by omega), ?_⟩
    rintro p hp q hq rfl
    obtain ⟨_, _, _, _, h1⟩ := (mem_spriteRow _ _ _ _).mp hp
    obtain ⟨row, _, h2, _, _, _, h3⟩ := (mem_spritePixels _ _ _ _).mp hq
    have := congrArg Fin.val h1
    simp only [Fin.val_ofNat] at this
    omega

/-- Everything the blit of a sprite of at most 32 rows does. -/
theorem drawPixels_spec (d : Display) (rows : List Byte) (x0 y0 : Nat) (h : rows.length ≤ 32) :
    (∀ px py, Display.pixel (drawPixels d (spritePixels rows x0 y0)).1 px py =
      (Display.pixel d px py ^^ decide ((px, py) ∈ spritePixels rows x0 y0))) ∧
    ((drawPixels d (spritePixels rows x0 y0)).2 = true ↔
      ∃ px py, (px, py) ∈ spritePixels rows x0 y0 ∧ Display.pixel d px py = true) := by
  obtain ⟨h1, h2⟩ := foldl_xorPixel _ (nodup_spritePixels rows x0 y0 h) d false
  refine ⟨h1, ?_⟩
  rw [drawPixels, h2]
  simp

end Sys2Proof.Machine
end

