-- ==== Sys2Proof/Laws/Ops.lean ====
section
/-! SUPPORT. What each shared operation can answer, said once: the range check, fetch, push, pop, the key
number, the end of a step, and the step itself. -/

namespace Sys2Proof.Machine

/-- The range check passes exactly on an empty range or one below 4096. -/
theorem rangeFault_eq_none_iff (base len : Nat) : rangeFault base len = none ↔ len = 0 ∨ base + len ≤ 4096 := by
  unfold rangeFault
  split <;> simp only [reduceCtorEq, true_iff, false_iff] <;> omega

/-- Otherwise it answers the lowest address of the range that does not exist. -/
theorem rangeFault_of_overrun {base len : Nat} (h0 : len ≠ 0) (h : 4096 < base + len) :
    rangeFault base len = some (.addressOutOfRange (max base 4096)) := by
  simp [rangeFault, h0, h]

/-- A range that exists lets the body answer. -/
theorem withRange_of_fits {base len : Nat} {r : Result} (h : len = 0 ∨ base + len ≤ 4096) :
    withRange base len r = r := by
  simp [withRange, (rangeFault_eq_none_iff base len).mpr h]

/-- A range that does not exist is a fault, whatever the body. -/
theorem withRange_of_overrun {base len : Nat} {r : Result} (h0 : len ≠ 0) (h : 4096 < base + len) :
    withRange base len r = .fault (.addressOutOfRange (max base 4096)) := by
  simp [withRange, rangeFault_of_overrun h0 h, raise]

/-- Everything `withRange` can answer. -/
theorem withRange_cases (base len : Nat) (r : Result) :
    (len = 0 ∨ base + len ≤ 4096) ∧ withRange base len r = r ∨
      (len ≠ 0 ∧ 4096 < base + len) ∧ withRange base len r = .fault (.addressOutOfRange (max base 4096)) := by
  by_cases h : len = 0 ∨ base + len ≤ 4096
  · exact .inl ⟨h, withRange_of_fits h⟩
  · exact .inr ⟨by omega, withRange_of_overrun (by omega) (by omega)⟩

/-- A fetch succeeds exactly when both bytes exist, with the big-endian word there. -/
theorem fetch_eq_ok_iff (s : State) (op : Word) : s.fetch = .ok op ↔
    s.pc.toNat + 2 ≤ 4096 ∧ op = opcodeOf (s.readByte s.pc.toNat) (s.readByte (s.pc.toNat + 1)) := by
  unfold State.fetch
  by_cases h : s.pc.toNat + 2 ≤ 4096
  · rw [(rangeFault_eq_none_iff _ _).mpr (.inr h)]
    simp [h, eq_comm]
  · rw [rangeFault_of_overrun (by omega) (by omega)]
    simp [h]

/-- Everything `withPush` can answer. -/
theorem withPush_cases (s : State) (body : State → Result) :
    (∃ h : s.depth.val < 16, withPush s body =
      body (s.setStack (s.stack.set s.depth.val s.pc h) ⟨s.depth.val + 1, by omega⟩)) ∨
      s.depth.val = 16 ∧ withPush s body = .fault .stackOverflow := by
  unfold withPush
  split
  · next h => exact .inl ⟨h, rfl⟩
  · exact .inr ⟨by omega, rfl⟩

/-- Everything `withPop` can answer. -/
theorem withPop_cases (s : State) (body : Word → State → Result) :
    (∃ (d : Nat) (h : d < 16), s.depth.val = d + 1 ∧
      withPop s body = body s.stack[d] (s.setStack s.stack ⟨d, by omega⟩)) ∨
      s.depth.val = 0 ∧ withPop s body = .fault .stackUnderflow := by
  unfold withPop
  split
  · next h => exact .inr ⟨by rw [h], rfl⟩
  · next d h he => exact .inl ⟨d, by omega, by rw [he], rfl⟩

/-- Everything `withKey` can answer. -/
theorem withKey_cases (v : Byte) (body : Reg → Result) :
    (∃ k : Reg, k.val = v.toNat ∧ withKey v body = body k) ∨
      15 < v.toNat ∧ withKey v body = .fault (.keyIndexOutOfRange v) := by
  unfold withKey
  split
  · next h => exact .inl ⟨⟨v.toNat, h⟩, rfl, rfl⟩
  · exact .inr ⟨by omega, rfl⟩

/-- The end of a step: a next state is the ticked one. -/
theorem finishStep_eq_next_iff (r : Result) (t : State) : finishStep r = .next t ↔ ∃ u, r = .next u ∧ t = u.tick := by
  cases r <;> simp [finishStep, raise, eq_comm]

/-- One timer's count, as a number. -/
theorem toNat_countDown (t : Byte) : (countDown t).toNat = t.toNat - 1 := by
  unfold countDown
  split
  · next h => simp [h]
  · next h =>
    have h0 : t.toNat ≠ 0 := fun e => h (BitVec.eq_of_toNat_eq (by simpa using e))
    rw [BitVec.toNat_sub_of_le (by rw [BitVec.le_def]; simp; omega)]
    simp

/-- What a step that answers a next state has done. -/
theorem step_next_cases {s t : State} (h : step s = .next t) : ∃ op i u, s.fetch = .ok op ∧ decode op = .ok i ∧
    exec i s.beginStep = .next u ∧ t = u.tick := by
  unfold step at h
  split at h
  · simp [raise] at h
  · next op hf =>
    split at h
    · simp [raise] at h
    · next i hd =>
      obtain ⟨u, hu, ht⟩ := (finishStep_eq_next_iff _ _).mp h
      exact ⟨op, i, u, hf, hd, hu, ht⟩

/-- A flag is 1 when it holds. -/
@[simp] theorem flag_true : flag true = 1 := rfl

/-- A flag is 0 when it does not. -/
@[simp] theorem flag_false : flag false = 0 := rfl

/-- A flag as a number. -/
theorem toNat_flag (p : Prop) [Decidable p] : (flag (decide p)).toNat = if p then 1 else 0 := by
  by_cases h : p <;> simp [h]

/-- The lowest key that is down: it is down, and no lower one is. -/
theorem lowestKey_eq_some_iff (s : State) (k : Reg) :
    s.lowestKey = some k ↔ s.keyDown k = true ∧ ∀ j : Reg, j < k → s.keyDown j = false := by
  unfold State.lowestKey
  rw [List.find?_eq_some_iff_getElem]
  constructor
  · rintro ⟨hk, i, hi, rfl, hlt⟩
    refine ⟨hk, fun j hj => ?_⟩
    have hjv : j.val < i := by simpa [Fin.lt_def] using hj
    simpa using hlt j.val hjv
  · rintro ⟨hk, hlt⟩
    refine ⟨hk, k.val, by simp, by simp, fun j hj => ?_⟩
    have := hlt ⟨j, by omega⟩ (by simpa [Fin.lt_def] using hj)
    simpa using this

/-- No key is down. -/
theorem lowestKey_eq_none_iff (s : State) : s.lowestKey = none ↔ ∀ k : Reg, s.keyDown k = false := by
  simp [State.lowestKey]

end Sys2Proof.Machine
end

