-- ==== Sys2Proof/Laws/State.lean ====
section
/-! SUPPORT. What each update of the state does to each field, one small lemma per field per update, so that
no proof unfolds a record update; and the accessors through the updates that do not touch them. -/

namespace Sys2Proof.Machine

variable (s : State)

@[simp] theorem State.setReg_memory (x : Reg) (v : Byte) : (s.setReg x v).memory = s.memory := rfl
@[simp] theorem State.setReg_display (x : Reg) (v : Byte) : (s.setReg x v).display = s.display := rfl
@[simp] theorem State.setReg_V (x : Reg) (v : Byte) : (s.setReg x v).V = s.V.set x v := rfl
@[simp] theorem State.setReg_I (x : Reg) (v : Byte) : (s.setReg x v).I = s.I := rfl
@[simp] theorem State.setReg_stack (x : Reg) (v : Byte) : (s.setReg x v).stack = s.stack := rfl
@[simp] theorem State.setReg_depth (x : Reg) (v : Byte) : (s.setReg x v).depth = s.depth := rfl
@[simp] theorem State.setReg_pc (x : Reg) (v : Byte) : (s.setReg x v).pc = s.pc := rfl
@[simp] theorem State.setReg_delayTimer (x : Reg) (v : Byte) : (s.setReg x v).delayTimer = s.delayTimer := rfl
@[simp] theorem State.setReg_soundTimer (x : Reg) (v : Byte) : (s.setReg x v).soundTimer = s.soundTimer := rfl
@[simp] theorem State.setReg_keys (x : Reg) (v : Byte) : (s.setReg x v).keys = s.keys := rfl
@[simp] theorem State.setReg_drawFlag (x : Reg) (v : Byte) : (s.setReg x v).drawFlag = s.drawFlag := rfl
@[simp] theorem State.setReg_draws (x : Reg) (v : Byte) : (s.setReg x v).draws = s.draws := rfl

@[simp] theorem State.setIndex_memory (v : Word) : (s.setIndex v).memory = s.memory := rfl
@[simp] theorem State.setIndex_display (v : Word) : (s.setIndex v).display = s.display := rfl
@[simp] theorem State.setIndex_V (v : Word) : (s.setIndex v).V = s.V := rfl
@[simp] theorem State.setIndex_I (v : Word) : (s.setIndex v).I = v := rfl
@[simp] theorem State.setIndex_stack (v : Word) : (s.setIndex v).stack = s.stack := rfl
@[simp] theorem State.setIndex_depth (v : Word) : (s.setIndex v).depth = s.depth := rfl
@[simp] theorem State.setIndex_pc (v : Word) : (s.setIndex v).pc = s.pc := rfl
@[simp] theorem State.setIndex_delayTimer (v : Word) : (s.setIndex v).delayTimer = s.delayTimer := rfl
@[simp] theorem State.setIndex_soundTimer (v : Word) : (s.setIndex v).soundTimer = s.soundTimer := rfl
@[simp] theorem State.setIndex_keys (v : Word) : (s.setIndex v).keys = s.keys := rfl
@[simp] theorem State.setIndex_drawFlag (v : Word) : (s.setIndex v).drawFlag = s.drawFlag := rfl
@[simp] theorem State.setIndex_draws (v : Word) : (s.setIndex v).draws = s.draws := rfl

@[simp] theorem State.jumpTo_memory (a : Word) : (s.jumpTo a).memory = s.memory := rfl
@[simp] theorem State.jumpTo_display (a : Word) : (s.jumpTo a).display = s.display := rfl
@[simp] theorem State.jumpTo_V (a : Word) : (s.jumpTo a).V = s.V := rfl
@[simp] theorem State.jumpTo_I (a : Word) : (s.jumpTo a).I = s.I := rfl
@[simp] theorem State.jumpTo_stack (a : Word) : (s.jumpTo a).stack = s.stack := rfl
@[simp] theorem State.jumpTo_depth (a : Word) : (s.jumpTo a).depth = s.depth := rfl
@[simp] theorem State.jumpTo_pc (a : Word) : (s.jumpTo a).pc = a := rfl
@[simp] theorem State.jumpTo_delayTimer (a : Word) : (s.jumpTo a).delayTimer = s.delayTimer := rfl
@[simp] theorem State.jumpTo_soundTimer (a : Word) : (s.jumpTo a).soundTimer = s.soundTimer := rfl
@[simp] theorem State.jumpTo_keys (a : Word) : (s.jumpTo a).keys = s.keys := rfl
@[simp] theorem State.jumpTo_drawFlag (a : Word) : (s.jumpTo a).drawFlag = s.drawFlag := rfl
@[simp] theorem State.jumpTo_draws (a : Word) : (s.jumpTo a).draws = s.draws := rfl

@[simp] theorem State.skipIf_memory (c : Bool) : (s.skipIf c).memory = s.memory := by cases c <;> rfl
@[simp] theorem State.skipIf_display (c : Bool) : (s.skipIf c).display = s.display := by cases c <;> rfl
@[simp] theorem State.skipIf_V (c : Bool) : (s.skipIf c).V = s.V := by cases c <;> rfl
@[simp] theorem State.skipIf_I (c : Bool) : (s.skipIf c).I = s.I := by cases c <;> rfl
@[simp] theorem State.skipIf_stack (c : Bool) : (s.skipIf c).stack = s.stack := by cases c <;> rfl
@[simp] theorem State.skipIf_depth (c : Bool) : (s.skipIf c).depth = s.depth := by cases c <;> rfl
@[simp] theorem State.skipIf_pc (c : Bool) : (s.skipIf c).pc = if c then s.pc + 2 else s.pc := by cases c <;> rfl
@[simp] theorem State.skipIf_delayTimer (c : Bool) : (s.skipIf c).delayTimer = s.delayTimer := by cases c <;> rfl
@[simp] theorem State.skipIf_soundTimer (c : Bool) : (s.skipIf c).soundTimer = s.soundTimer := by cases c <;> rfl
@[simp] theorem State.skipIf_keys (c : Bool) : (s.skipIf c).keys = s.keys := by cases c <;> rfl
@[simp] theorem State.skipIf_drawFlag (c : Bool) : (s.skipIf c).drawFlag = s.drawFlag := by cases c <;> rfl
@[simp] theorem State.skipIf_draws (c : Bool) : (s.skipIf c).draws = s.draws := by cases c <;> rfl

@[simp] theorem State.storeBytes_memory (a : Nat) (bs : List Byte) : (s.storeBytes a bs).memory = Memory.writeBytes s.memory a bs := rfl
@[simp] theorem State.storeBytes_display (a : Nat) (bs : List Byte) : (s.storeBytes a bs).display = s.display := rfl
@[simp] theorem State.storeBytes_V (a : Nat) (bs : List Byte) : (s.storeBytes a bs).V = s.V := rfl
@[simp] theorem State.storeBytes_I (a : Nat) (bs : List Byte) : (s.storeBytes a bs).I = s.I := rfl
@[simp] theorem State.storeBytes_stack (a : Nat) (bs : List Byte) : (s.storeBytes a bs).stack = s.stack := rfl
@[simp] theorem State.storeBytes_depth (a : Nat) (bs : List Byte) : (s.storeBytes a bs).depth = s.depth := rfl
@[simp] theorem State.storeBytes_pc (a : Nat) (bs : List Byte) : (s.storeBytes a bs).pc = s.pc := rfl
@[simp] theorem State.storeBytes_delayTimer (a : Nat) (bs : List Byte) : (s.storeBytes a bs).delayTimer = s.delayTimer := rfl
@[simp] theorem State.storeBytes_soundTimer (a : Nat) (bs : List Byte) : (s.storeBytes a bs).soundTimer = s.soundTimer := rfl
@[simp] theorem State.storeBytes_keys (a : Nat) (bs : List Byte) : (s.storeBytes a bs).keys = s.keys := rfl
@[simp] theorem State.storeBytes_drawFlag (a : Nat) (bs : List Byte) : (s.storeBytes a bs).drawFlag = s.drawFlag := rfl
@[simp] theorem State.storeBytes_draws (a : Nat) (bs : List Byte) : (s.storeBytes a bs).draws = s.draws := rfl

@[simp] theorem State.loadRegsThrough_memory (x : Reg) (a : Nat) : (s.loadRegsThrough x a).memory = s.memory := rfl
@[simp] theorem State.loadRegsThrough_display (x : Reg) (a : Nat) : (s.loadRegsThrough x a).display = s.display := rfl
@[simp] theorem State.loadRegsThrough_I (x : Reg) (a : Nat) : (s.loadRegsThrough x a).I = s.I := rfl
@[simp] theorem State.loadRegsThrough_stack (x : Reg) (a : Nat) : (s.loadRegsThrough x a).stack = s.stack := rfl
@[simp] theorem State.loadRegsThrough_depth (x : Reg) (a : Nat) : (s.loadRegsThrough x a).depth = s.depth := rfl
@[simp] theorem State.loadRegsThrough_pc (x : Reg) (a : Nat) : (s.loadRegsThrough x a).pc = s.pc := rfl
@[simp] theorem State.loadRegsThrough_delayTimer (x : Reg) (a : Nat) : (s.loadRegsThrough x a).delayTimer = s.delayTimer := rfl
@[simp] theorem State.loadRegsThrough_soundTimer (x : Reg) (a : Nat) : (s.loadRegsThrough x a).soundTimer = s.soundTimer := rfl
@[simp] theorem State.loadRegsThrough_keys (x : Reg) (a : Nat) : (s.loadRegsThrough x a).keys = s.keys := rfl
@[simp] theorem State.loadRegsThrough_drawFlag (x : Reg) (a : Nat) : (s.loadRegsThrough x a).drawFlag = s.drawFlag := rfl
@[simp] theorem State.loadRegsThrough_draws (x : Reg) (a : Nat) : (s.loadRegsThrough x a).draws = s.draws := rfl

@[simp] theorem State.setStack_memory (v : Vector Word 16) (d : Fin 17) : (s.setStack v d).memory = s.memory := rfl
@[simp] theorem State.setStack_display (v : Vector Word 16) (d : Fin 17) : (s.setStack v d).display = s.display := rfl
@[simp] theorem State.setStack_V (v : Vector Word 16) (d : Fin 17) : (s.setStack v d).V = s.V := rfl
@[simp] theorem State.setStack_I (v : Vector Word 16) (d : Fin 17) : (s.setStack v d).I = s.I := rfl
@[simp] theorem State.setStack_stack (v : Vector Word 16) (d : Fin 17) : (s.setStack v d).stack = v := rfl
@[simp] theorem State.setStack_depth (v : Vector Word 16) (d : Fin 17) : (s.setStack v d).depth = d := rfl
@[simp] theorem State.setStack_pc (v : Vector Word 16) (d : Fin 17) : (s.setStack v d).pc = s.pc := rfl
@[simp] theorem State.setStack_delayTimer (v : Vector Word 16) (d : Fin 17) : (s.setStack v d).delayTimer = s.delayTimer := rfl
@[simp] theorem State.setStack_soundTimer (v : Vector Word 16) (d : Fin 17) : (s.setStack v d).soundTimer = s.soundTimer := rfl
@[simp] theorem State.setStack_keys (v : Vector Word 16) (d : Fin 17) : (s.setStack v d).keys = s.keys := rfl
@[simp] theorem State.setStack_drawFlag (v : Vector Word 16) (d : Fin 17) : (s.setStack v d).drawFlag = s.drawFlag := rfl
@[simp] theorem State.setStack_draws (v : Vector Word 16) (d : Fin 17) : (s.setStack v d).draws = s.draws := rfl

@[simp] theorem State.setDrawFlag_memory : (s.setDrawFlag).memory = s.memory := rfl
@[simp] theorem State.setDrawFlag_display : (s.setDrawFlag).display = s.display := rfl
@[simp] theorem State.setDrawFlag_V : (s.setDrawFlag).V = s.V := rfl
@[simp] theorem State.setDrawFlag_I : (s.setDrawFlag).I = s.I := rfl
@[simp] theorem State.setDrawFlag_stack : (s.setDrawFlag).stack = s.stack := rfl
@[simp] theorem State.setDrawFlag_depth : (s.setDrawFlag).depth = s.depth := rfl
@[simp] theorem State.setDrawFlag_pc : (s.setDrawFlag).pc = s.pc := rfl
@[simp] theorem State.setDrawFlag_delayTimer : (s.setDrawFlag).delayTimer = s.delayTimer := rfl
@[simp] theorem State.setDrawFlag_soundTimer : (s.setDrawFlag).soundTimer = s.soundTimer := rfl
@[simp] theorem State.setDrawFlag_keys : (s.setDrawFlag).keys = s.keys := rfl
@[simp] theorem State.setDrawFlag_drawFlag : (s.setDrawFlag).drawFlag = true := rfl
@[simp] theorem State.setDrawFlag_draws : (s.setDrawFlag).draws = s.draws := rfl

@[simp] theorem State.setDisplay_memory (d : Display) : (s.setDisplay d).memory = s.memory := rfl
@[simp] theorem State.setDisplay_display (d : Display) : (s.setDisplay d).display = d := rfl
@[simp] theorem State.setDisplay_V (d : Display) : (s.setDisplay d).V = s.V := rfl
@[simp] theorem State.setDisplay_I (d : Display) : (s.setDisplay d).I = s.I := rfl
@[simp] theorem State.setDisplay_stack (d : Display) : (s.setDisplay d).stack = s.stack := rfl
@[simp] theorem State.setDisplay_depth (d : Display) : (s.setDisplay d).depth = s.depth := rfl
@[simp] theorem State.setDisplay_pc (d : Display) : (s.setDisplay d).pc = s.pc := rfl
@[simp] theorem State.setDisplay_delayTimer (d : Display) : (s.setDisplay d).delayTimer = s.delayTimer := rfl
@[simp] theorem State.setDisplay_soundTimer (d : Display) : (s.setDisplay d).soundTimer = s.soundTimer := rfl
@[simp] theorem State.setDisplay_keys (d : Display) : (s.setDisplay d).keys = s.keys := rfl
@[simp] theorem State.setDisplay_drawFlag (d : Display) : (s.setDisplay d).drawFlag = s.drawFlag := rfl
@[simp] theorem State.setDisplay_draws (d : Display) : (s.setDisplay d).draws = s.draws := rfl

@[simp] theorem State.setDelayTimer_memory (v : Byte) : (s.setDelayTimer v).memory = s.memory := rfl
@[simp] theorem State.setDelayTimer_display (v : Byte) : (s.setDelayTimer v).display = s.display := rfl
@[simp] theorem State.setDelayTimer_V (v : Byte) : (s.setDelayTimer v).V = s.V := rfl
@[simp] theorem State.setDelayTimer_I (v : Byte) : (s.setDelayTimer v).I = s.I := rfl
@[simp] theorem State.setDelayTimer_stack (v : Byte) : (s.setDelayTimer v).stack = s.stack := rfl
@[simp] theorem State.setDelayTimer_depth (v : Byte) : (s.setDelayTimer v).depth = s.depth := rfl
@[simp] theorem State.setDelayTimer_pc (v : Byte) : (s.setDelayTimer v).pc = s.pc := rfl
@[simp] theorem State.setDelayTimer_delayTimer (v : Byte) : (s.setDelayTimer v).delayTimer = v := rfl
@[simp] theorem State.setDelayTimer_soundTimer (v : Byte) : (s.setDelayTimer v).soundTimer = s.soundTimer := rfl
@[simp] theorem State.setDelayTimer_keys (v : Byte) : (s.setDelayTimer v).keys = s.keys := rfl
@[simp] theorem State.setDelayTimer_drawFlag (v : Byte) : (s.setDelayTimer v).drawFlag = s.drawFlag := rfl
@[simp] theorem State.setDelayTimer_draws (v : Byte) : (s.setDelayTimer v).draws = s.draws := rfl

@[simp] theorem State.setSoundTimer_memory (v : Byte) : (s.setSoundTimer v).memory = s.memory := rfl
@[simp] theorem State.setSoundTimer_display (v : Byte) : (s.setSoundTimer v).display = s.display := rfl
@[simp] theorem State.setSoundTimer_V (v : Byte) : (s.setSoundTimer v).V = s.V := rfl
@[simp] theorem State.setSoundTimer_I (v : Byte) : (s.setSoundTimer v).I = s.I := rfl
@[simp] theorem State.setSoundTimer_stack (v : Byte) : (s.setSoundTimer v).stack = s.stack := rfl
@[simp] theorem State.setSoundTimer_depth (v : Byte) : (s.setSoundTimer v).depth = s.depth := rfl
@[simp] theorem State.setSoundTimer_pc (v : Byte) : (s.setSoundTimer v).pc = s.pc := rfl
@[simp] theorem State.setSoundTimer_delayTimer (v : Byte) : (s.setSoundTimer v).delayTimer = s.delayTimer := rfl
@[simp] theorem State.setSoundTimer_soundTimer (v : Byte) : (s.setSoundTimer v).soundTimer = v := rfl
@[simp] theorem State.setSoundTimer_keys (v : Byte) : (s.setSoundTimer v).keys = s.keys := rfl
@[simp] theorem State.setSoundTimer_drawFlag (v : Byte) : (s.setSoundTimer v).drawFlag = s.drawFlag := rfl
@[simp] theorem State.setSoundTimer_draws (v : Byte) : (s.setSoundTimer v).draws = s.draws := rfl

@[simp] theorem State.countDraw_memory : (s.countDraw).memory = s.memory := rfl
@[simp] theorem State.countDraw_display : (s.countDraw).display = s.display := rfl
@[simp] theorem State.countDraw_V : (s.countDraw).V = s.V := rfl
@[simp] theorem State.countDraw_I : (s.countDraw).I = s.I := rfl
@[simp] theorem State.countDraw_stack : (s.countDraw).stack = s.stack := rfl
@[simp] theorem State.countDraw_depth : (s.countDraw).depth = s.depth := rfl
@[simp] theorem State.countDraw_pc : (s.countDraw).pc = s.pc := rfl
@[simp] theorem State.countDraw_delayTimer : (s.countDraw).delayTimer = s.delayTimer := rfl
@[simp] theorem State.countDraw_soundTimer : (s.countDraw).soundTimer = s.soundTimer := rfl
@[simp] theorem State.countDraw_keys : (s.countDraw).keys = s.keys := rfl
@[simp] theorem State.countDraw_drawFlag : (s.countDraw).drawFlag = s.drawFlag := rfl
@[simp] theorem State.countDraw_draws : (s.countDraw).draws = s.draws + 1 := rfl

@[simp] theorem State.beginStep_memory : (s.beginStep).memory = s.memory := rfl
@[simp] theorem State.beginStep_display : (s.beginStep).display = s.display := rfl
@[simp] theorem State.beginStep_V : (s.beginStep).V = s.V := rfl
@[simp] theorem State.beginStep_I : (s.beginStep).I = s.I := rfl
@[simp] theorem State.beginStep_stack : (s.beginStep).stack = s.stack := rfl
@[simp] theorem State.beginStep_depth : (s.beginStep).depth = s.depth := rfl
@[simp] theorem State.beginStep_pc : (s.beginStep).pc = s.pc + 2 := rfl
@[simp] theorem State.beginStep_delayTimer : (s.beginStep).delayTimer = s.delayTimer := rfl
@[simp] theorem State.beginStep_soundTimer : (s.beginStep).soundTimer = s.soundTimer := rfl
@[simp] theorem State.beginStep_keys : (s.beginStep).keys = s.keys := rfl
@[simp] theorem State.beginStep_drawFlag : (s.beginStep).drawFlag = false := rfl
@[simp] theorem State.beginStep_draws : (s.beginStep).draws = s.draws := rfl

@[simp] theorem State.tick_memory : (s.tick).memory = s.memory := rfl
@[simp] theorem State.tick_display : (s.tick).display = s.display := rfl
@[simp] theorem State.tick_V : (s.tick).V = s.V := rfl
@[simp] theorem State.tick_I : (s.tick).I = s.I := rfl
@[simp] theorem State.tick_stack : (s.tick).stack = s.stack := rfl
@[simp] theorem State.tick_depth : (s.tick).depth = s.depth := rfl
@[simp] theorem State.tick_pc : (s.tick).pc = s.pc := rfl
@[simp] theorem State.tick_delayTimer : (s.tick).delayTimer = countDown s.delayTimer := rfl
@[simp] theorem State.tick_soundTimer : (s.tick).soundTimer = countDown s.soundTimer := rfl
@[simp] theorem State.tick_keys : (s.tick).keys = s.keys := rfl
@[simp] theorem State.tick_drawFlag : (s.tick).drawFlag = s.drawFlag := rfl
@[simp] theorem State.tick_draws : (s.tick).draws = s.draws := rfl

/-- A register read after a register write. -/
@[simp] theorem State.reg_setReg (x k : Reg) (v : Byte) :
    (s.setReg x v).reg k = if k = x then v else s.reg k := by
  simp only [State.reg, State.setReg, Fin.getElem_fin, Vector.getElem_set]
  by_cases h : k = x
  · simp [h]
  · have : ¬ (x : Nat) = k := fun e => h (Fin.ext e.symm)
    simp [h, this]

/-- A register read after the loads of Fx65. -/
@[simp] theorem State.reg_loadRegsThrough (x k : Reg) (a : Nat) :
    (s.loadRegsThrough x a).reg k = if k ≤ x then s.readByte (a + k.val) else s.reg k := by
  simp [State.reg, State.loadRegsThrough]

/-- Reads depend on their own field only. -/
theorem State.reg_congr {s t : State} (h : t.V = s.V) (k : Reg) : t.reg k = s.reg k := by
  simp [State.reg, h]

/-- Reads of memory depend on the memory only. -/
theorem State.readByte_congr {s t : State} (h : t.memory = s.memory) (a : Nat) :
    t.readByte a = s.readByte a := by
  simp [State.readByte, h]

/-- Reads of keys depend on the keys only. -/
theorem State.keyDown_congr {s t : State} (h : t.keys = s.keys) (k : Reg) :
    t.keyDown k = s.keyDown k := by
  simp [State.keyDown, h]

/-! The accessors through the updates that do not touch them. -/

@[simp] theorem State.readByte_setReg (x : Reg) (v : Byte) (c' : Nat) : (s.setReg x v).readByte c' = s.readByte c' :=
  State.readByte_congr (by simp) c'
@[simp] theorem State.keyDown_setReg (x : Reg) (v : Byte) (k : Reg) : (s.setReg x v).keyDown k = s.keyDown k :=
  State.keyDown_congr (by simp) k
@[simp] theorem State.reg_setIndex (v : Word) (k : Reg) : (s.setIndex v).reg k = s.reg k :=
  State.reg_congr (by simp) k
@[simp] theorem State.readByte_setIndex (v : Word) (c' : Nat) : (s.setIndex v).readByte c' = s.readByte c' :=
  State.readByte_congr (by simp) c'
@[simp] theorem State.keyDown_setIndex (v : Word) (k : Reg) : (s.setIndex v).keyDown k = s.keyDown k :=
  State.keyDown_congr (by simp) k
@[simp] theorem State.reg_jumpTo (a : Word) (k : Reg) : (s.jumpTo a).reg k = s.reg k :=
  State.reg_congr (by simp) k
@[simp] theorem State.readByte_jumpTo (a : Word) (c' : Nat) : (s.jumpTo a).readByte c' = s.readByte c' :=
  State.readByte_congr (by simp) c'
@[simp] theorem State.keyDown_jumpTo (a : Word) (k : Reg) : (s.jumpTo a).keyDown k = s.keyDown k :=
  State.keyDown_congr (by simp) k
@[simp] theorem State.reg_skipIf (c : Bool) (k : Reg) : (s.skipIf c).reg k = s.reg k :=
  State.reg_congr (by simp) k
@[simp] theorem State.readByte_skipIf (c : Bool) (c' : Nat) : (s.skipIf c).readByte c' = s.readByte c' :=
  State.readByte_congr (by simp) c'
@[simp] theorem State.keyDown_skipIf (c : Bool) (k : Reg) : (s.skipIf c).keyDown k = s.keyDown k :=
  State.keyDown_congr (by simp) k
@[simp] theorem State.reg_storeBytes (a : Nat) (bs : List Byte) (k : Reg) : (s.storeBytes a bs).reg k = s.reg k :=
  State.reg_congr (by simp) k
@[simp] theorem State.keyDown_storeBytes (a : Nat) (bs : List Byte) (k : Reg) : (s.storeBytes a bs).keyDown k = s.keyDown k :=
  State.keyDown_congr (by simp) k
@[simp] theorem State.readByte_loadRegsThrough (x : Reg) (a : Nat) (c' : Nat) : (s.loadRegsThrough x a).readByte c' = s.readByte c' :=
  State.readByte_congr (by simp) c'
@[simp] theorem State.keyDown_loadRegsThrough (x : Reg) (a : Nat) (k : Reg) : (s.loadRegsThrough x a).keyDown k = s.keyDown k :=
  State.keyDown_congr (by simp) k
@[simp] theorem State.reg_setStack (v : Vector Word 16) (d : Fin 17) (k : Reg) : (s.setStack v d).reg k = s.reg k :=
  State.reg_congr (by simp) k
@[simp] theorem State.readByte_setStack (v : Vector Word 16) (d : Fin 17) (c' : Nat) : (s.setStack v d).readByte c' = s.readByte c' :=
  State.readByte_congr (by simp) c'
@[simp] theorem State.keyDown_setStack (v : Vector Word 16) (d : Fin 17) (k : Reg) : (s.setStack v d).keyDown k = s.keyDown k :=
  State.keyDown_congr (by simp) k
@[simp] theorem State.reg_setDrawFlag (k : Reg) : (s.setDrawFlag).reg k = s.reg k :=
  State.reg_congr (by simp) k
@[simp] theorem State.readByte_setDrawFlag (c' : Nat) : (s.setDrawFlag).readByte c' = s.readByte c' :=
  State.readByte_congr (by simp) c'
@[simp] theorem State.keyDown_setDrawFlag (k : Reg) : (s.setDrawFlag).keyDown k = s.keyDown k :=
  State.keyDown_congr (by simp) k
@[simp] theorem State.reg_setDisplay (d : Display) (k : Reg) : (s.setDisplay d).reg k = s.reg k :=
  State.reg_congr (by simp) k
@[simp] theorem State.readByte_setDisplay (d : Display) (c' : Nat) : (s.setDisplay d).readByte c' = s.readByte c' :=
  State.readByte_congr (by simp) c'
@[simp] theorem State.keyDown_setDisplay (d : Display) (k : Reg) : (s.setDisplay d).keyDown k = s.keyDown k :=
  State.keyDown_congr (by simp) k
@[simp] theorem State.reg_setDelayTimer (v : Byte) (k : Reg) : (s.setDelayTimer v).reg k = s.reg k :=
  State.reg_congr (by simp) k
@[simp] theorem State.readByte_setDelayTimer (v : Byte) (c' : Nat) : (s.setDelayTimer v).readByte c' = s.readByte c' :=
  State.readByte_congr (by simp) c'
@[simp] theorem State.keyDown_setDelayTimer (v : Byte) (k : Reg) : (s.setDelayTimer v).keyDown k = s.keyDown k :=
  State.keyDown_congr (by simp) k
@[simp] theorem State.reg_setSoundTimer (v : Byte) (k : Reg) : (s.setSoundTimer v).reg k = s.reg k :=
  State.reg_congr (by simp) k
@[simp] theorem State.readByte_setSoundTimer (v : Byte) (c' : Nat) : (s.setSoundTimer v).readByte c' = s.readByte c' :=
  State.readByte_congr (by simp) c'
@[simp] theorem State.keyDown_setSoundTimer (v : Byte) (k : Reg) : (s.setSoundTimer v).keyDown k = s.keyDown k :=
  State.keyDown_congr (by simp) k
@[simp] theorem State.reg_countDraw (k : Reg) : (s.countDraw).reg k = s.reg k :=
  State.reg_congr (by simp) k
@[simp] theorem State.readByte_countDraw (c' : Nat) : (s.countDraw).readByte c' = s.readByte c' :=
  State.readByte_congr (by simp) c'
@[simp] theorem State.keyDown_countDraw (k : Reg) : (s.countDraw).keyDown k = s.keyDown k :=
  State.keyDown_congr (by simp) k
@[simp] theorem State.reg_beginStep (k : Reg) : (s.beginStep).reg k = s.reg k :=
  State.reg_congr (by simp) k
@[simp] theorem State.readByte_beginStep (c' : Nat) : (s.beginStep).readByte c' = s.readByte c' :=
  State.readByte_congr (by simp) c'
@[simp] theorem State.keyDown_beginStep (k : Reg) : (s.beginStep).keyDown k = s.keyDown k :=
  State.keyDown_congr (by simp) k
@[simp] theorem State.reg_tick (k : Reg) : (s.tick).reg k = s.reg k :=
  State.reg_congr (by simp) k
@[simp] theorem State.readByte_tick (c' : Nat) : (s.tick).readByte c' = s.readByte c' :=
  State.readByte_congr (by simp) c'
@[simp] theorem State.keyDown_tick (k : Reg) : (s.tick).keyDown k = s.keyDown k :=
  State.keyDown_congr (by simp) k

end Sys2Proof.Machine
end

