-- ==== Sys2Proof/Laws/Exec.lean ====
section
/-! SUPPORT. What an instruction has done when it answers a next state: the inversion of each of the eight that
can fault, and all 34 in one lemma. -/

namespace Sys2Proof.Machine

variable {s t : State}

/-- 2nnn answered a next state: there was room, and `pc` was pushed. -/
theorem exec_call_next {nnn : Imm12} (h : exec (.call nnn) s = .next t) : ∃ hd : s.depth.val < 16,
    t = (s.setStack (s.stack.set s.depth.val s.pc hd) ⟨s.depth.val + 1, by omega⟩).jumpTo (addressOf nnn) := by
  obtain ⟨hd, e⟩ | ⟨_, e⟩ := withPush_cases s fun s1 => .next (s1.jumpTo (addressOf nnn))
  · exact ⟨hd, Host.Outcome.next.inj (h.symm.trans e)⟩
  · exact absurd (h.symm.trans e) (by simp)

/-- 00EE answered a next state: the stack was not empty, and its top entry became `pc`. -/
theorem exec_ret_next (h : exec .ret s = .next t) : ∃ (d : Nat) (hd : d < 16), s.depth.val = d + 1 ∧
    t = (s.setStack s.stack ⟨d, by omega⟩).jumpTo s.stack[d] := by
  obtain ⟨d, hd, e1, e⟩ | ⟨_, e⟩ := withPop_cases s fun target s1 => .next (s1.jumpTo target)
  · exact ⟨d, hd, e1, Host.Outcome.next.inj (h.symm.trans e)⟩
  · exact absurd (h.symm.trans e) (by simp)

/-- Ex9E answered a next state: the register named a key. -/
theorem exec_skp_next {x : Reg} (h : exec (.skp x) s = .next t) :
    ∃ k : Reg, k.val = (s.reg x).toNat ∧ t = s.skipIf (s.keyDown k) := by
  obtain ⟨k, hk, e⟩ | ⟨_, e⟩ := withKey_cases (s.reg x) fun k => .next (s.skipIf (s.keyDown k))
  · exact ⟨k, hk, Host.Outcome.next.inj (h.symm.trans e)⟩
  · exact absurd (h.symm.trans e) (by simp)

/-- ExA1 answered a next state: the register named a key. -/
theorem exec_sknp_next {x : Reg} (h : exec (.sknp x) s = .next t) :
    ∃ k : Reg, k.val = (s.reg x).toNat ∧ t = s.skipIf (!s.keyDown k) := by
  obtain ⟨k, hk, e⟩ | ⟨_, e⟩ := withKey_cases (s.reg x) fun k => .next (s.skipIf (!s.keyDown k))
  · exact ⟨k, hk, Host.Outcome.next.inj (h.symm.trans e)⟩
  · exact absurd (h.symm.trans e) (by simp)

/-- A range-checked body answered a next state: the range exists and the body answered it. -/
theorem withRange_next {base len : Nat} {r : Result} (h : withRange base len r = .next t) :
    (len = 0 ∨ base + len ≤ 4096) ∧ r = .next t := by
  obtain ⟨hr, e⟩ | ⟨_, e⟩ := withRange_cases base len r
  · exact ⟨hr, e ▸ h⟩
  · exact absurd (h.symm.trans e) (by simp)

/-- Fx33 answered a next state: the three bytes exist, and the digits were stored. -/
theorem exec_ldB_next {x : Reg} (h : exec (.ldB x) s = .next t) :
    s.I.toNat + 3 ≤ 4096 ∧ t = s.storeBytes s.I.toNat (decimalDigits (s.reg x)) := by
  obtain ⟨hr, e⟩ := withRange_next h
  exact ⟨by omega, (Host.Outcome.next.inj e).symm⟩

/-- Fx55 answered a next state: the bytes exist, and the registers were stored. -/
theorem exec_stRegs_next {x : Reg} (h : exec (.stRegs x) s = .next t) :
    s.I.toNat + (x.val + 1) ≤ 4096 ∧ t = s.storeBytes s.I.toNat (s.regsThrough x) := by
  obtain ⟨hr, e⟩ := withRange_next h
  exact ⟨by omega, (Host.Outcome.next.inj e).symm⟩

/-- Fx65 answered a next state: the bytes exist, and the registers were loaded. -/
theorem exec_ldRegs_next {x : Reg} (h : exec (.ldRegs x) s = .next t) :
    s.I.toNat + (x.val + 1) ≤ 4096 ∧ t = s.loadRegsThrough x s.I.toNat := by
  obtain ⟨hr, e⟩ := withRange_next h
  exact ⟨by omega, (Host.Outcome.next.inj e).symm⟩

/-- Dxyn answered a next state: the rows exist, and it is the old state but for the draw flag, VF and the
display. -/
theorem exec_drw_next {x y : Reg} {n : Nibble} (h : exec (.drw x y n) s = .next t) :
    (n.toNat = 0 ∨ s.I.toNat + n.toNat ≤ 4096) ∧
      ∃ d v, t = ((s.setDrawFlag.setReg VF 0).setDisplay d).setReg VF v := by
  obtain ⟨hr, e⟩ := withRange_next h
  exact ⟨hr, _, _, (Host.Outcome.next.inj e).symm⟩

/-- The registers stored by Fx55, one by one. -/
theorem getD_regsThrough (s : State) {x k : Reg} (h : k ≤ x) : (s.regsThrough x).getD k 0 = s.reg k := by
  have : k.val < x.val + 1 := by have := Fin.le_def.mp h; omega
  simp [State.regsThrough, State.reg, List.getD, this]

/-- How many registers Fx55 stores. -/
@[simp] theorem length_regsThrough (s : State) (x : Reg) : (s.regsThrough x).length = x.val + 1 := by
  simp [State.regsThrough]

/-- The next state of each instruction as updates of the state, with what its completion tells. -/
def NextForm (i : Instr) (s t : State) : Prop :=
  match i with
  | .cls => t = (s.setDisplay Display.clear).setDrawFlag
  | .ret => ∃ (d : Nat) (hd : d < 16), s.depth.val = d + 1 ∧ t = (s.setStack s.stack ⟨d, by omega⟩).jumpTo s.stack[d]
  | .jp nnn => t = s.jumpTo (addressOf nnn)
  | .call nnn => ∃ hd : s.depth.val < 16,
      t = (s.setStack (s.stack.set s.depth.val s.pc hd) ⟨s.depth.val + 1, by omega⟩).jumpTo (addressOf nnn)
  | .seImm _ _ | .sneImm _ _ | .seReg _ _ | .sneReg _ _ => ∃ c, t = s.skipIf c
  | .ldImm x _ | .addImm x _ | .ldReg x _ | .or x _ | .and x _ | .xor x _ => ∃ v, t = s.setReg x v
  | .addReg x _ | .sub x _ | .shr x _ | .subn x _ | .shl x _ => ∃ f v, t = (s.setReg VF f).setReg x v
  | .ldI nnn => t = s.setIndex (addressOf nnn)
  | .jpV0 nnn => t = s.jumpTo (addressOf nnn + widen (s.reg 0))
  | .rnd x nn => t = s.countDraw.setReg x (Config.rnd s.draws &&& nn)
  | .drw _ _ n => (n.toNat = 0 ∨ s.I.toNat + n.toNat ≤ 4096) ∧
      ∃ d v, t = ((s.setDrawFlag.setReg VF 0).setDisplay d).setReg VF v
  | .skp _ | .sknp _ => ∃ c, t = s.skipIf c
  | .ldVxDt x => t = s.setReg x s.delayTimer
  | .ldDtVx x => t = s.setDelayTimer (s.reg x)
  | .ldStVx x => t = s.setSoundTimer (s.reg x)
  | .addI _ => ∃ a : Word, a.toNat ≤ 0xFFF ∧ (t = s.setIndex a ∨ t = (s.setIndex a).setReg VF 1)
  | .ldVxK x => (∃ k, s.lowestKey = some k ∧ t = s.setReg x (regByte k)) ∨
      s.lowestKey = none ∧ t = s.jumpTo (s.pc - 2)
  | .ldF _ => ∃ a : Word, a.toNat ≤ 0xFFF ∧ t = s.setIndex a
  | .ldB x => s.I.toNat + 3 ≤ 4096 ∧ t = s.storeBytes s.I.toNat (decimalDigits (s.reg x))
  | .stRegs x => s.I.toNat + (x.val + 1) ≤ 4096 ∧ t = s.storeBytes s.I.toNat (s.regsThrough x)
  | .ldRegs x => s.I.toNat + (x.val + 1) ≤ 4096 ∧ t = s.loadRegsThrough x s.I.toNat

/-- All that an instruction can have done when it answers a next state. -/
theorem exec_next {i : Instr} (h : exec i s = .next t) : NextForm i s t := by
  cases i with
  | ret => exact exec_ret_next h
  | call => exact exec_call_next h
  | drw => exact exec_drw_next h
  | skp => exact let ⟨_, _, e⟩ := exec_skp_next h; ⟨_, e⟩
  | sknp => exact let ⟨_, _, e⟩ := exec_sknp_next h; ⟨_, e⟩
  | ldB => exact exec_ldB_next h
  | stRegs => exact exec_stRegs_next h
  | ldRegs => exact exec_ldRegs_next h
  | ldF x =>
    cases h
    have hv := (s.reg x).isLt
    exact ⟨_, by rw [BitVec.toNat_ofNat, Nat.mod_eq_of_lt (by omega)]; omega, rfl⟩
  | addI x =>
    refine ⟨BitVec.ofNat 16 (indexSum s.I (s.reg x) % 4096), by simp; omega, ?_⟩
    simp only [exec, execAddI, Host.Outcome.next.injEq] at h
    split at h
    · exact .inr h.symm
    · exact .inl h.symm
  | ldVxK x =>
    simp only [exec, execLdVxK] at h
    split at h
    · next k hk => exact .inl ⟨k, hk, (Host.Outcome.next.inj h).symm⟩
    · next hk => exact .inr ⟨hk, (Host.Outcome.next.inj h).symm⟩
  | seImm | sneImm | seReg | sneReg | ldImm | addImm | ldReg | or | and | xor =>
    exact ⟨_, (Host.Outcome.next.inj h).symm⟩
  | addReg | sub | shr | subn | shl => exact ⟨_, _, (Host.Outcome.next.inj h).symm⟩
  | cls | jp | ldI | jpV0 | rnd | ldVxDt | ldDtVx | ldStVx => exact (Host.Outcome.next.inj h).symm

end Sys2Proof.Machine
end

