-- ==== Sys2Proof/Laws/Memory.lean ====
section
/-! SUPPORT. The laws of memory: a read after a write, and that every operation keeps the canonical form. -/

namespace Sys2Proof.Machine

/-- The canonical form from a higher address is canonical from a lower one. -/
theorem Memory.wfFrom_mono {lo lo' : Nat} (h : lo' ≤ lo) :
    ∀ {m : Memory}, Memory.wfFrom lo m = true → Memory.wfFrom lo' m = true
  | [], _ => rfl
  | (k, b) :: m, hw => by
    simp only [Memory.wfFrom, Bool.and_eq_true, decide_eq_true_eq] at hw ⊢
    exact ⟨⟨⟨h.trans hw.1.1.1, hw.1.1.2⟩, hw.1.2⟩, hw.2⟩

/-- In canonical form from `lo` on, an address below `lo` reads as the reset contents. -/
theorem Memory.read_of_lt {lo a : Nat} (h : a < lo) :
    ∀ {m : Memory}, Memory.wfFrom lo m = true → Memory.read m a = resetByte a
  | [], _ => rfl
  | (k, b) :: m, hw => by
    simp only [Memory.wfFrom, Bool.and_eq_true, decide_eq_true_eq] at hw
    simp [Memory.read, show a < k by omega]

/-- A read after `cons`. -/
theorem Memory.read_cons {a : Nat} {v : Byte} {m : Memory} (hw : Memory.wfFrom (a + 1) m = true) (c : Nat) :
    Memory.read (Memory.cons a v m) c = if c = a then v else Memory.read m c := by
  unfold Memory.cons
  split
  · split
    · next hv hc => rw [hc, Memory.read_of_lt (Nat.lt_succ_self a) hw, hv]
    · rfl
  · simp only [Memory.read]
    split
    · next h => rw [if_neg (by omega), Memory.read_of_lt (by omega) hw]
    · rfl

/-- `cons` keeps the canonical form. -/
theorem Memory.wfFrom_cons {lo a : Nat} {v : Byte} {m : Memory} (hlo : lo ≤ a) (ha : a < 4096)
    (hw : Memory.wfFrom (a + 1) m = true) : Memory.wfFrom lo (Memory.cons a v m) = true := by
  unfold Memory.cons
  split
  · exact Memory.wfFrom_mono (by omega) hw
  · next hv => simp [Memory.wfFrom, hlo, ha, hv, hw]

/-- `insert` keeps the canonical form. -/
theorem Memory.wfFrom_insert {a : Nat} {v : Byte} (ha : a < 4096) :
    ∀ {lo : Nat} {m : Memory}, lo ≤ a → Memory.wfFrom lo m = true →
      Memory.wfFrom lo (Memory.insert m a v) = true
  | lo, [], hlo, _ => Memory.wfFrom_cons hlo ha rfl
  | lo, (k, b) :: m, hlo, hw => by
    have hw' := hw
    simp only [Memory.wfFrom, Bool.and_eq_true, decide_eq_true_eq] at hw
    obtain ⟨⟨⟨h1, h2⟩, h3⟩, h4⟩ := hw
    unfold Memory.insert
    split
    · refine Memory.wfFrom_cons hlo ha ?_
      simp [Memory.wfFrom, h2, h4, bne_iff_ne.mp h3]
      omega
    · split
      · next he => exact Memory.wfFrom_cons hlo ha (he ▸ h4)
      · simp [Memory.wfFrom, h1, h2, bne_iff_ne.mp h3,
          Memory.wfFrom_insert ha (show k + 1 ≤ a by omega) h4]

/-- A read after `insert`. -/
theorem Memory.read_insert {a : Nat} {v : Byte} (c : Nat) :
    ∀ {lo : Nat} {m : Memory}, Memory.wfFrom lo m = true →
      Memory.read (Memory.insert m a v) c = if c = a then v else Memory.read m c
  | _, [], _ => Memory.read_cons rfl c
  | lo, (k, b) :: m, hw => by
    simp only [Memory.wfFrom, Bool.and_eq_true, decide_eq_true_eq] at hw
    obtain ⟨⟨⟨h1, h2⟩, h3⟩, h4⟩ := hw
    unfold Memory.insert
    split
    · refine Memory.read_cons ?_ c
      simp [Memory.wfFrom, h2, h4, bne_iff_ne.mp h3]
      omega
    · split
      · next he =>
        subst he
        rw [Memory.read_cons h4]
        by_cases hc : c = a
        · simp [hc]
        · by_cases hlt : c < a
          · simp [Memory.read, hc, hlt, Memory.read_of_lt (show c < a + 1 by omega) h4]
          · simp [Memory.read, hc, hlt]
      · simp only [Memory.read, Memory.read_insert c h4]
        split
        · rw [if_neg (by omega)]
        · split
          · rw [if_neg (by omega)]
          · rfl

/-- A write keeps the canonical form. -/
theorem Memory.wf_write {m : Memory} {a : Nat} {v : Byte} (h : Memory.wf m = true) :
    Memory.wf (Memory.write m a v) = true := by
  unfold Memory.write
  split
  · next ha => exact Memory.wfFrom_insert ha (Nat.zero_le a) h
  · exact h

/-- A read after a write: the written cell holds the value, every other cell reads as before. -/
theorem Memory.read_write {m : Memory} {a : Nat} {v : Byte} (h : Memory.wf m = true) (ha : a < 4096) (c : Nat) :
    Memory.read (Memory.write m a v) c = if c = a then v else Memory.read m c := by
  simp [Memory.write, ha, Memory.read_insert c h]

/-- A store of a run of bytes keeps the canonical form. -/
theorem Memory.wf_writeBytes {m : Memory} (h : Memory.wf m = true) :
    ∀ (bs : List Byte) (a : Nat), Memory.wf (Memory.writeBytes m a bs) = true
  | [], _ => h
  | _ :: bs, a => Memory.wf_write (Memory.wf_writeBytes h bs (a + 1))

/-- A read after the store of a run of bytes that exists: inside the run its byte, outside as before. -/
theorem Memory.read_writeBytes {m : Memory} (h : Memory.wf m = true) (c : Nat) :
    ∀ (bs : List Byte) (a : Nat), a + bs.length ≤ 4096 →
      Memory.read (Memory.writeBytes m a bs) c =
        if a ≤ c ∧ c < a + bs.length then bs.getD (c - a) 0 else Memory.read m c
  | [], a, _ => by simp [Memory.writeBytes]
  | b :: bs, a, hl => by
    simp only [List.length_cons] at hl
    rw [Memory.writeBytes, Memory.read_write (Memory.wf_writeBytes h bs (a + 1)) (by omega),
      Memory.read_writeBytes h c bs (a + 1) (by omega)]
    by_cases hc : c = a
    · simp [hc]
    · by_cases hin : a + 1 ≤ c ∧ c < a + 1 + bs.length
      · rw [if_neg hc, if_pos hin, if_pos (by simp only [List.length_cons]; omega),
          show c - a = (c - (a + 1)) + 1 by omega, List.getD_cons_succ]
      · rw [if_neg hc, if_neg hin, if_neg (by simp only [List.length_cons]; omega)]

/-- An address that does not exist is never stored to. -/
theorem Memory.read_of_ge {a : Nat} (ha : 4096 ≤ a) :
    ∀ {lo : Nat} {m : Memory}, Memory.wfFrom lo m = true → Memory.read m a = resetByte a
  | _, [], _ => rfl
  | _, (k, b) :: m, hw => by
    simp only [Memory.wfFrom, Bool.and_eq_true, decide_eq_true_eq] at hw
    obtain ⟨⟨⟨_, h2⟩, _⟩, h4⟩ := hw
    simp only [Memory.read]
    split
    · rfl
    · rw [if_neg (by omega)]
      exact Memory.read_of_ge ha h4

/-- The `k`-th byte of a run that is read. -/
theorem Memory.getD_readBytes (m : Memory) (a : Nat) {n k : Nat} (h : k < n) :
    (Memory.readBytes m a n).getD k 0 = Memory.read m (a + k) := by
  simp [Memory.readBytes, List.getD, h]

/-- A run that is read has its length. -/
@[simp] theorem Memory.length_readBytes (m : Memory) (a n : Nat) : (Memory.readBytes m a n).length = n := by
  simp [Memory.readBytes]

end Sys2Proof.Machine
end

