-- ==== Sys2Proof/Laws/PerInstr.lean ====
section
/-! SUPPORT. The per-instruction law: the word of every instruction is admitted by the instruction's own row
of the opcode map (30 R47, R48). -/

namespace Sys2Proof.Laws.EncodesInRow

/-- The encoding of an instruction has the literal bits of its row, and the row is one of the 34. -/
def Statement (i : Instr) : Prop := i.row.admits (encode i) = true ∧ i.row ∈ opcodeMap

theorem cls : Statement Instr.cls := ⟨by decide, by decide⟩

theorem ret : Statement Instr.ret := ⟨by decide, by decide⟩

theorem jp (nnn : Imm12) : Statement (Instr.jp nnn) := 
  ⟨by simp [Instr.row, encode, OpcodeRow.admits, and_mask_F000], by simp [Instr.row, opcodeMap, opcodeRows1, opcodeRows2, opcodeRows3]⟩

theorem call (nnn : Imm12) : Statement (Instr.call nnn) := 
  ⟨by simp [Instr.row, encode, OpcodeRow.admits, and_mask_F000], by simp [Instr.row, opcodeMap, opcodeRows1, opcodeRows2, opcodeRows3]⟩

theorem seImm (x : Reg) (nn : Byte) : Statement (Instr.seImm x nn) := 
  ⟨by simp [Instr.row, encode, OpcodeRow.admits, and_mask_F000], by simp [Instr.row, opcodeMap, opcodeRows1, opcodeRows2, opcodeRows3]⟩

theorem sneImm (x : Reg) (nn : Byte) : Statement (Instr.sneImm x nn) := 
  ⟨by simp [Instr.row, encode, OpcodeRow.admits, and_mask_F000], by simp [Instr.row, opcodeMap, opcodeRows1, opcodeRows2, opcodeRows3]⟩

theorem seReg (x y : Reg) : Statement (Instr.seReg x y) := 
  ⟨by simp [Instr.row, encode, OpcodeRow.admits, and_mask_F00F], by simp [Instr.row, opcodeMap, opcodeRows1, opcodeRows2, opcodeRows3]⟩

theorem ldImm (x : Reg) (nn : Byte) : Statement (Instr.ldImm x nn) := 
  ⟨by simp [Instr.row, encode, OpcodeRow.admits, and_mask_F000], by simp [Instr.row, opcodeMap, opcodeRows1, opcodeRows2, opcodeRows3]⟩

theorem addImm (x : Reg) (nn : Byte) : Statement (Instr.addImm x nn) := 
  ⟨by simp [Instr.row, encode, OpcodeRow.admits, and_mask_F000], by simp [Instr.row, opcodeMap, opcodeRows1, opcodeRows2, opcodeRows3]⟩

theorem ldReg (x y : Reg) : Statement (Instr.ldReg x y) := 
  ⟨by simp [Instr.row, encode, OpcodeRow.admits, and_mask_F00F], by simp [Instr.row, opcodeMap, opcodeRows1, opcodeRows2, opcodeRows3]⟩

theorem or (x y : Reg) : Statement (Instr.or x y) := 
  ⟨by simp [Instr.row, encode, OpcodeRow.admits, and_mask_F00F], by simp [Instr.row, opcodeMap, opcodeRows1, opcodeRows2, opcodeRows3]⟩

theorem and (x y : Reg) : Statement (Instr.and x y) := 
  ⟨by simp [Instr.row, encode, OpcodeRow.admits, and_mask_F00F], by simp [Instr.row, opcodeMap, opcodeRows1, opcodeRows2, opcodeRows3]⟩

theorem xor (x y : Reg) : Statement (Instr.xor x y) := 
  ⟨by simp [Instr.row, encode, OpcodeRow.admits, and_mask_F00F], by simp [Instr.row, opcodeMap, opcodeRows1, opcodeRows2, opcodeRows3]⟩

theorem addReg (x y : Reg) : Statement (Instr.addReg x y) := 
  ⟨by simp [Instr.row, encode, OpcodeRow.admits, and_mask_F00F], by simp [Instr.row, opcodeMap, opcodeRows1, opcodeRows2, opcodeRows3]⟩

theorem sub (x y : Reg) : Statement (Instr.sub x y) := 
  ⟨by simp [Instr.row, encode, OpcodeRow.admits, and_mask_F00F], by simp [Instr.row, opcodeMap, opcodeRows1, opcodeRows2, opcodeRows3]⟩

theorem shr (x y : Reg) : Statement (Instr.shr x y) := 
  ⟨by simp [Instr.row, encode, OpcodeRow.admits, and_mask_F00F], by simp [Instr.row, opcodeMap, opcodeRows1, opcodeRows2, opcodeRows3]⟩

theorem subn (x y : Reg) : Statement (Instr.subn x y) := 
  ⟨by simp [Instr.row, encode, OpcodeRow.admits, and_mask_F00F], by simp [Instr.row, opcodeMap, opcodeRows1, opcodeRows2, opcodeRows3]⟩

theorem shl (x y : Reg) : Statement (Instr.shl x y) := 
  ⟨by simp [Instr.row, encode, OpcodeRow.admits, and_mask_F00F], by simp [Instr.row, opcodeMap, opcodeRows1, opcodeRows2, opcodeRows3]⟩

theorem sneReg (x y : Reg) : Statement (Instr.sneReg x y) := 
  ⟨by simp [Instr.row, encode, OpcodeRow.admits, and_mask_F00F], by simp [Instr.row, opcodeMap, opcodeRows1, opcodeRows2, opcodeRows3]⟩

theorem ldI (nnn : Imm12) : Statement (Instr.ldI nnn) := 
  ⟨by simp [Instr.row, encode, OpcodeRow.admits, and_mask_F000], by simp [Instr.row, opcodeMap, opcodeRows1, opcodeRows2, opcodeRows3]⟩

theorem jpV0 (nnn : Imm12) : Statement (Instr.jpV0 nnn) := 
  ⟨by simp [Instr.row, encode, OpcodeRow.admits, and_mask_F000], by simp [Instr.row, opcodeMap, opcodeRows1, opcodeRows2, opcodeRows3]⟩

theorem rnd (x : Reg) (nn : Byte) : Statement (Instr.rnd x nn) := 
  ⟨by simp [Instr.row, encode, OpcodeRow.admits, and_mask_F000], by simp [Instr.row, opcodeMap, opcodeRows1, opcodeRows2, opcodeRows3]⟩

theorem drw (x y : Reg) (n : Nibble) : Statement (Instr.drw x y n) := 
  ⟨by simp [Instr.row, encode, OpcodeRow.admits, and_mask_F000], by simp [Instr.row, opcodeMap, opcodeRows1, opcodeRows2, opcodeRows3]⟩

theorem skp (x : Reg) : Statement (Instr.skp x) := 
  ⟨by simp [Instr.row, encode, OpcodeRow.admits, and_mask_F0FF], by simp [Instr.row, opcodeMap, opcodeRows1, opcodeRows2, opcodeRows3]⟩

theorem sknp (x : Reg) : Statement (Instr.sknp x) := 
  ⟨by simp [Instr.row, encode, OpcodeRow.admits, and_mask_F0FF], by simp [Instr.row, opcodeMap, opcodeRows1, opcodeRows2, opcodeRows3]⟩

theorem ldVxDt (x : Reg) : Statement (Instr.ldVxDt x) := 
  ⟨by simp [Instr.row, encode, OpcodeRow.admits, and_mask_F0FF], by simp [Instr.row, opcodeMap, opcodeRows1, opcodeRows2, opcodeRows3]⟩

theorem ldDtVx (x : Reg) : Statement (Instr.ldDtVx x) := 
  ⟨by simp [Instr.row, encode, OpcodeRow.admits, and_mask_F0FF], by simp [Instr.row, opcodeMap, opcodeRows1, opcodeRows2, opcodeRows3]⟩

theorem ldStVx (x : Reg) : Statement (Instr.ldStVx x) := 
  ⟨by simp [Instr.row, encode, OpcodeRow.admits, and_mask_F0FF], by simp [Instr.row, opcodeMap, opcodeRows1, opcodeRows2, opcodeRows3]⟩

theorem addI (x : Reg) : Statement (Instr.addI x) := 
  ⟨by simp [Instr.row, encode, OpcodeRow.admits, and_mask_F0FF], by simp [Instr.row, opcodeMap, opcodeRows1, opcodeRows2, opcodeRows3]⟩

theorem ldVxK (x : Reg) : Statement (Instr.ldVxK x) := 
  ⟨by simp [Instr.row, encode, OpcodeRow.admits, and_mask_F0FF], by simp [Instr.row, opcodeMap, opcodeRows1, opcodeRows2, opcodeRows3]⟩

theorem ldF (x : Reg) : Statement (Instr.ldF x) := 
  ⟨by simp [Instr.row, encode, OpcodeRow.admits, and_mask_F0FF], by simp [Instr.row, opcodeMap, opcodeRows1, opcodeRows2, opcodeRows3]⟩

theorem ldB (x : Reg) : Statement (Instr.ldB x) := 
  ⟨by simp [Instr.row, encode, OpcodeRow.admits, and_mask_F0FF], by simp [Instr.row, opcodeMap, opcodeRows1, opcodeRows2, opcodeRows3]⟩

theorem stRegs (x : Reg) : Statement (Instr.stRegs x) := 
  ⟨by simp [Instr.row, encode, OpcodeRow.admits, and_mask_F0FF], by simp [Instr.row, opcodeMap, opcodeRows1, opcodeRows2, opcodeRows3]⟩

theorem ldRegs (x : Reg) : Statement (Instr.ldRegs x) := 
  ⟨by simp [Instr.row, encode, OpcodeRow.admits, and_mask_F0FF], by simp [Instr.row, opcodeMap, opcodeRows1, opcodeRows2, opcodeRows3]⟩

end Sys2Proof.Laws.EncodesInRow
end

