-- ==== Sys2Proof/Laws/Safety.lean ====
section
/-! SUPPORT. The laws of the terms the claims use, and that reset and every store keep memory in canonical
form. -/

namespace Sys2Proof.Machine

/-- Memory after reset is in canonical form. -/
theorem State.wf_reset : Memory.wf State.reset.memory = true := rfl

/-- A store of bytes keeps memory in canonical form. -/
theorem State.wf_storeBytes {s : State} (h : Memory.wf s.memory = true) (a : Nat) (bs : List Byte) :
    Memory.wf (s.storeBytes a bs).memory = true := Memory.wf_writeBytes h bs a

/-- Placing an instruction keeps memory in canonical form. -/
theorem State.wf_withFetchWord {s : State} (h : Memory.wf s.memory = true) (nbits w : Nat) :
    Memory.wf (s.withFetchWord nbits w).memory = true := State.wf_storeBytes h _ _

/-- A state executes at most one instruction. -/
theorem State.executes_unique {s : State} {i j : Instr} (hi : s.executes i) (hj : s.executes j) : i = j := by
  obtain ⟨a, ha, hai⟩ := hi
  obtain ⟨b, hb, hbj⟩ := hj
  obtain rfl : a = b := Except.ok.inj (ha.symm.trans hb)
  exact Except.ok.inj (hai.symm.trans hbj)

/-- A state and itself differ in no part. -/
theorem Frame.refl (changed : Part → Prop) (s : State) : Frame changed s s := by
  intro p _
  cases p <;> rfl

/-- A wider set of changed parts says less. -/
theorem Frame.mono {c d : Part → Prop} (h : ∀ p, c p → d p) {s t : State} (hf : Frame c s t) : Frame d s t :=
  fun p hp => hf p fun hc => hp (h p hc)

/-- Two frames compose. -/
theorem Frame.trans {c : Part → Prop} {s t u : State} (h : Frame c s t) (g : Frame c t u) : Frame c s u := by
  intro p hp
  have h1 := h p hp
  have h2 := g p hp
  cases p <;> exact Eq.trans h2 h1

end Sys2Proof.Machine
end

