-- ==== Sys2Proof/Tests/Slice0.lean ====
section
/-! SUPPORT. Small tests of one step each, their expected results taken from the vectors of
`spec/95_test_vectors.md` (the vector is named) or from the example of a rule; and, for every statement with
hypotheses, a named witness that meets them. -/

open Sys2Proof Sys2Proof.Machine

namespace Sys2Proof.Tests

/-- The outcome is a next state of which `p` holds. -/
def nextHas (r : Result) (p : State → Bool) : Bool :=
  match r with
  | .next t => p t
  | .fault _ => false
  | .refused _ => false

/-- The outcome is exactly this fault. -/
def faultIs (r : Result) (f : Fault) : Bool :=
  match r with
  | .next _ => false
  | .fault g => g == f
  | .refused _ => false

/-- What `nextHas` tells. -/
theorem exists_of_nextHas {r : Result} {p : State → Bool} (h : nextHas r p = true) : ∃ t, r = .next t ∧ p t = true := by
  cases r with
  | next t => exact ⟨t, rfl, h⟩
  | fault f => exact absurd h (by simp [nextHas])
  | refused q => exact absurd h (by simp [nextHas])

/-- What `faultIs` tells. -/
theorem eq_of_faultIs {r : Result} {f : Fault} (h : faultIs r f = true) : r = .fault f := by
  cases r with
  | next t => exact absurd h (by simp [faultIs])
  | fault g => rw [beq_iff_eq.mp h]
  | refused q => exact absurd h (by simp [faultIs])

/-- The reset state. -/
abbrev s0 : State := State.reset

/-- The reset state with registers set. -/
def regs (l : List (Reg × Byte)) : State := l.foldl (fun s p => s.setReg p.1 p.2) s0

/-- The state with the listed keys down. -/
def keysDown (l : List Reg) (s : State) : State :=
  { s with keys := Vector.ofFn fun k => s.keys[k] || l.contains k }

/-- The state with the program counter at `a`. -/
def at_ (a : Word) (s : State) : State := s.jumpTo a

/-- The state with `d` stack entries in use, all 0x206. -/
def called (d : Fin 17) (s : State) : State := s.setStack (Vector.replicate 16 0x206) d

/-- One step of the opcode `w` from `s`. -/
def run (w : Nat) (s : State) : Result := step (s.withFetchWord 16 w)

/-! ## Decoding: a word of every instruction, written out from its pattern (30 R45, R48) -/

theorem test_decode_literals : decode 0x00E0 = .ok .cls ∧ decode 0x00EE = .ok .ret := by decide

theorem test_decode_nnn : decode 0x1ABC = .ok (.jp 0xABC) ∧ decode 0x2ABC = .ok (.call 0xABC) ∧
    decode 0xAABC = .ok (.ldI 0xABC) ∧ decode 0xBABC = .ok (.jpV0 0xABC) := by decide

theorem test_decode_xnn : decode 0x31A5 = .ok (.seImm 1 0xA5) ∧ decode 0x42A5 = .ok (.sneImm 2 0xA5) ∧
    decode 0x63A5 = .ok (.ldImm 3 0xA5) ∧ decode 0x74A5 = .ok (.addImm 4 0xA5) ∧
    decode 0xC5A5 = .ok (.rnd 5 0xA5) := by decide

theorem test_decode_xy : decode 0x5AB0 = .ok (.seReg 0xA 0xB) ∧ decode 0x9AB0 = .ok (.sneReg 0xA 0xB) ∧
    decode 0x8120 = .ok (.ldReg 1 2) ∧ decode 0x8121 = .ok (.or 1 2) ∧ decode 0x8122 = .ok (.and 1 2) ∧
    decode 0x8123 = .ok (.xor 1 2) ∧ decode 0x8124 = .ok (.addReg 1 2) ∧ decode 0x8125 = .ok (.sub 1 2) ∧
    decode 0x8AB6 = .ok (.shr 0xA 0xB) ∧ decode 0x8127 = .ok (.subn 1 2) ∧
    decode 0x81FE = .ok (.shl 1 0xF) := by decide

theorem test_decode_xyn : decode 0xD123 = .ok (.drw 1 2 3) ∧ decode 0xDEF0 = .ok (.drw 0xE 0xF 0) := by decide

theorem test_decode_keys : decode 0xEF9E = .ok (.skp 0xF) ∧ decode 0xE0A1 = .ok (.sknp 0) ∧
    decode 0xF30A = .ok (.ldVxK 3) := by decide

theorem test_decode_x : decode 0xF107 = .ok (.ldVxDt 1) ∧ decode 0xF215 = .ok (.ldDtVx 2) ∧
    decode 0xF318 = .ok (.ldStVx 3) ∧ decode 0xF41E = .ok (.addI 4) ∧ decode 0xF529 = .ok (.ldF 5) ∧
    decode 0xF633 = .ok (.ldB 6) ∧ decode 0xF755 = .ok (.stRegs 7) ∧ decode 0xF865 = .ok (.ldRegs 8) := by decide

/-- The bytes 0x80, 0x14 are the opcode 0x8014 (30 R43). -/
theorem test_decode_bytes : decodeBytes 0x80 0x14 = .ok (.addReg 0 1) := by decide

/-- The words of 95 section 2.6 that decode to nothing. -/
theorem test_decode_none :
    [0x0000, 0x00E1, 0x00EF, 0x01E0, 0x0FEE, 0x0123, 0x5AB1, 0x8AB8, 0x8AB9, 0x8ABA, 0x8ABB, 0x8ABC, 0x8ABD,
      0x8ABF, 0x9ABF, 0xE000, 0xE09F, 0xE0A0, 0xF000, 0xF008, 0xF01F, 0xF030, 0xF056, 0xF075, 0xF085,
      0xF0FF].all (fun w => decodeTableWord 16 w == none) = true := by decide

/-! ## Well-formedness: an ill-formed opcode for each check -/

theorem test_wellformed_literal : opcodeWellFormed 0x00E0 = true ∧ opcodeWellFormed 0x00E1 = false ∧
    opcodeWellFormed 0x01EE = false := by decide

theorem test_wellformed_nibble : opcodeWellFormed 0x5120 = true ∧ opcodeWellFormed 0x5121 = false ∧
    opcodeWellFormed 0x8127 = true ∧ opcodeWellFormed 0x8128 = false ∧ opcodeWellFormed 0x9AB0 = true ∧
    opcodeWellFormed 0x9ABF = false := by decide

theorem test_wellformed_byte : opcodeWellFormed 0xE19E = true ∧ opcodeWellFormed 0xE19F = false ∧
    opcodeWellFormed 0xF165 = true ∧ opcodeWellFormed 0xF175 = false := by decide

/-! ## Control flow -/

/-- F1, F3. -/
theorem test_jp : nextHas (run 0x1ABC s0) (fun t => t.pc == 0xABC) = true ∧
    nextHas (run 0x1FFF s0) (fun t => t.pc == 0xFFF && faultIs (step t) (.addressOutOfRange 0x1000)) = true := by
  decide

/-- F4, F5. -/
theorem test_call : nextHas (run 0x2300 s0)
      (fun t => t.pc == 0x300 && t.stackpointer == 0 && t.stack[0] == 0x202) = true ∧
    nextHas (run 0x2300 (called 15 s0)) (fun t => t.stackpointer == 15 && t.stack[15] == 0x202) = true := by decide

/-- F6. -/
theorem test_call_overflow : faultIs (run 0x2300 (called 16 s0)) .stackOverflow = true := by decide

/-- F7. -/
theorem test_ret : nextHas (run 0x00EE (called 1 s0))
    (fun t => t.pc == 0x206 && t.stackpointer == -1 && t.stack[0] == 0x206) = true := by decide

/-- F9. -/
theorem test_ret_underflow : faultIs (run 0x00EE s0) .stackUnderflow = true := by decide

/-- F10, F11. -/
theorem test_jp_v0 : nextHas (run 0xB300 (regs [(0, 0x10)])) (fun t => t.pc == 0x310) = true ∧
    nextHas (run 0xBFFF (regs [(0, 0xFF)]))
      (fun t => t.pc == 0x10FE && faultIs (step t) (.addressOutOfRange 0x10FE)) = true := by decide

/-- F12, F13. -/
theorem test_se_imm : nextHas (run 0x312A (regs [(1, 0x2A)])) (fun t => t.pc == 0x204) = true ∧
    nextHas (run 0x312A (regs [(1, 0x2B)])) (fun t => t.pc == 0x202) = true := by decide

/-- F24: a skip taken past the end of memory. -/
theorem test_se_imm_end : nextHas (run 0x3000 (at_ 0xFFE s0))
    (fun t => t.pc == 0x1002 && faultIs (step t) (.addressOutOfRange 0x1002)) = true := by decide

/-- F14, F15. -/
theorem test_sne_imm : nextHas (run 0x412A (regs [(1, 0x2A)])) (fun t => t.pc == 0x202) = true ∧
    nextHas (run 0x412A (regs [(1, 0x2B)])) (fun t => t.pc == 0x204) = true := by decide

/-- F16, F17. -/
theorem test_se_reg : nextHas (run 0x5120 (regs [(1, 7), (2, 7)])) (fun t => t.pc == 0x204) = true ∧
    nextHas (run 0x5120 (regs [(1, 7), (2, 8)])) (fun t => t.pc == 0x202) = true := by decide

/-- F19, F20. -/
theorem test_sne_reg : nextHas (run 0x9120 (regs [(1, 7), (2, 7)])) (fun t => t.pc == 0x202) = true ∧
    nextHas (run 0x9120 (regs [(1, 7), (2, 8)])) (fun t => t.pc == 0x204) = true := by decide

/-- F25: the second byte does not exist. F21: an opcode that matches nothing. O7: nothing loaded. -/
theorem test_step_faults : faultIs (step (at_ 0xFFF s0)) (.addressOutOfRange 0x1000) = true ∧
    faultIs (run 0x5121 s0) (.unknownOpcode 0x5121) = true ∧ faultIs (step s0) (.unknownOpcode 0x0000) = true := by
  decide

/-- F26: an odd `pc` executes. -/
theorem test_odd_pc : nextHas (run 0x6042 (at_ 0x201 s0)) (fun t => t.reg 0 == 0x42 && t.pc == 0x203) = true := by
  decide

/-! ## Registers and arithmetic -/

/-- A1, A2. -/
theorem test_ld_imm : nextHas (run 0x6AFF (regs [(0xA, 0x12)])) (fun t => t.reg 0xA == 0xFF) = true ∧
    nextHas (run 0x6F55 s0) (fun t => t.reg VF == 0x55) = true := by decide

/-- A3. -/
theorem test_add_imm : nextHas (run 0x7105 (regs [(1, 0xFE), (VF, 7)]))
    (fun t => t.reg 1 == 0x03 && t.reg VF == 7) = true := by decide

/-- A6. -/
theorem test_ld_reg : nextHas (run 0x8120 (regs [(1, 1), (2, 0x99)])) (fun t => t.reg 1 == 0x99) = true := by decide

/-- A7. -/
theorem test_or : nextHas (run 0x8121 (regs [(1, 0xF0), (2, 0x0F), (VF, 5)]))
    (fun t => t.reg 1 == 0xFF && t.reg VF == 5) = true := by decide

/-- A8. -/
theorem test_and : nextHas (run 0x8122 (regs [(1, 0xF0), (2, 0x3C), (VF, 5)]))
    (fun t => t.reg 1 == 0x30 && t.reg VF == 5) = true := by decide

/-- A9. -/
theorem test_xor : nextHas (run 0x8123 (regs [(1, 0xF0), (2, 0x3C), (VF, 5)]))
    (fun t => t.reg 1 == 0xCC && t.reg VF == 5) = true := by decide

/-- A12, A14. -/
theorem test_add_reg : nextHas (run 0x8124 (regs [(1, 0xF0), (2, 0x20)]))
      (fun t => t.reg 1 == 0x10 && t.reg VF == 1) = true ∧
    nextHas (run 0x8124 (regs [(1, 0x80), (2, 0x7F), (VF, 1)]))
      (fun t => t.reg 1 == 0xFF && t.reg VF == 0) = true := by decide

/-- V1, V2. -/
theorem test_add_reg_vf : nextHas (run 0x8F14 (regs [(1, 0x20), (VF, 0xF0)])) (fun t => t.reg VF == 0x10) = true ∧
    nextHas (run 0x81F4 (regs [(1, 0x20), (VF, 0xF0)]))
      (fun t => t.reg 1 == 0x10 && t.reg VF == 1) = true := by decide

/-- A17, A18. -/
theorem test_sub : nextHas (run 0x8125 (regs [(1, 0x10), (2, 0x20), (VF, 1)]))
      (fun t => t.reg 1 == 0xF0 && t.reg VF == 0) = true ∧
    nextHas (run 0x8125 (regs [(1, 0x20), (2, 0x20)])) (fun t => t.reg 1 == 0 && t.reg VF == 1) = true := by decide

/-- V4, V6, V8. -/
theorem test_sub_vf : nextHas (run 0x8F15 (regs [(1, 0x20), (VF, 0x30)])) (fun t => t.reg VF == 0xE1) = true ∧
    nextHas (run 0x81F5 (regs [(1, 0x30), (VF, 0x20)])) (fun t => t.reg 1 == 0x2F && t.reg VF == 1) = true ∧
    nextHas (run 0x8FF5 (regs [(VF, 0x77)])) (fun t => t.reg VF == 0) = true := by decide

/-- A25. -/
theorem test_shr : nextHas (run 0x8126 (regs [(1, 0x05), (2, 0xFF)]))
    (fun t => t.reg 1 == 0x02 && t.reg VF == 1 && t.reg 2 == 0xFF) = true := by decide

/-- V9, V10. -/
theorem test_shr_vf : nextHas (run 0x8F16 (regs [(VF, 0x03)])) (fun t => t.reg VF == 0) = true ∧
    nextHas (run 0x81F6 (regs [(1, 0x05), (VF, 0x44)])) (fun t => t.reg 1 == 0x02 && t.reg VF == 1) = true := by
  decide

/-- A23, A24. -/
theorem test_subn : nextHas (run 0x8127 (regs [(1, 0x20), (2, 0x10), (VF, 1)]))
      (fun t => t.reg 1 == 0xF0 && t.reg VF == 0 && t.reg 2 == 0x10) = true ∧
    nextHas (run 0x8127 (regs [(1, 0x20), (2, 0x20)])) (fun t => t.reg 1 == 0 && t.reg VF == 1) = true := by decide

/-- V12, V13, V15. -/
theorem test_subn_vf : nextHas (run 0x8F17 (regs [(1, 0x20), (VF, 0x30)])) (fun t => t.reg VF == 0x20) = true ∧
    nextHas (run 0x81F7 (regs [(1, 0x10), (VF, 0x20)])) (fun t => t.reg 1 == 0xF1 && t.reg VF == 1) = true ∧
    nextHas (run 0x8FF7 (regs [(VF, 0x77)])) (fun t => t.reg VF == 0) = true := by decide

/-- A29, A30. -/
theorem test_shl : nextHas (run 0x812E (regs [(1, 0x81), (2, 0xFF)]))
      (fun t => t.reg 1 == 0x02 && t.reg VF == 1 && t.reg 2 == 0xFF) = true ∧
    nextHas (run 0x812E (regs [(1, 0x41), (VF, 1)])) (fun t => t.reg 1 == 0x82 && t.reg VF == 0) = true := by decide

/-- V16, V17. -/
theorem test_shl_vf : nextHas (run 0x8F1E (regs [(VF, 0x80)])) (fun t => t.reg VF == 0x02) = true ∧
    nextHas (run 0x8F1E (regs [(VF, 0x7F)])) (fun t => t.reg VF == 0) = true := by decide

/-- 42 R84: whatever `rnd` is, Cx00 leaves 0. The random byte itself is free and no test can expect one. -/
theorem test_rnd : nextHas (run 0xC100 (regs [(1, 0xFF)])) (fun t => t.pc == 0x202 && t.draws == 1) = true := by
  decide

/-! ## Index register and memory -/

/-- M2. -/
theorem test_ld_i : nextHas (run 0xAFFF s0) (fun t => t.I == 0xFFF) = true := by decide

/-- M3, M7. -/
theorem test_add_i : nextHas (run 0xF11E ((regs [(1, 0x20), (VF, 5)]).setIndex 0x100))
      (fun t => t.I == 0x120 && t.reg VF == 5) = true ∧
    nextHas (run 0xF11E ((regs [(1, 0xFF)]).setIndex 0xFFF)) (fun t => t.I == 0x0FE && t.reg VF == 1) = true := by
  decide

/-- M8, M9. -/
theorem test_add_i_vf : nextHas (run 0xFF1E ((regs [(VF, 0x20)]).setIndex 0x100))
      (fun t => t.I == 0x120 && t.reg VF == 0x20) = true ∧
    nextHas (run 0xFF1E ((regs [(VF, 0x20)]).setIndex 0xFF0)) (fun t => t.I == 0x010 && t.reg VF == 1) = true := by
  decide

/-- M11, M14. -/
theorem test_ld_f : nextHas (run 0xF129 (regs [(1, 0x0A)])) (fun t => t.I == 0x082) = true ∧
    nextHas (run 0xF129 (regs [(1, 0xFF)])) (fun t => t.I == 0x54B) = true := by decide

/-- M15, M19. -/
theorem test_ld_b : nextHas (run 0xF133 ((regs [(1, 255)]).setIndex 0x300))
      (fun t => Memory.readBytes t.memory 0x300 3 == [2, 5, 5] && t.I == 0x300) = true ∧
    nextHas (run 0xF133 ((regs [(1, 199)]).setIndex 0x300))
      (fun t => Memory.readBytes t.memory 0x300 3 == [1, 9, 9]) = true := by decide

/-- M20, M21. -/
theorem test_ld_b_end : nextHas (run 0xF133 ((regs [(1, 123)]).setIndex 0xFFD))
      (fun t => Memory.readBytes t.memory 0xFFD 3 == [1, 2, 3]) = true ∧
    faultIs (run 0xF133 ((regs [(1, 123)]).setIndex 0xFFE)) (.addressOutOfRange 0x1000) = true := by decide

/-- M23, M28. -/
theorem test_st_regs : nextHas (run 0xF255 ((regs [(0, 0x11), (1, 0x22), (2, 0x33), (3, 0x44)]).setIndex 0x400))
      (fun t => Memory.readBytes t.memory 0x400 4 == [0x11, 0x22, 0x33, 0x00] && t.I == 0x400) = true ∧
    faultIs (run 0xF155 ((regs [(0, 0x5A)]).setIndex 0xFFF)) (.addressOutOfRange 0x1000) = true := by decide

/-- M27, M26. -/
theorem test_st_regs_end : nextHas (run 0xF055 ((regs [(0, 0x5A)]).setIndex 0xFFF))
      (fun t => t.readByte 0xFFF == 0x5A) = true ∧
    faultIs (run 0xFF55 (s0.setIndex 0xFF1)) (.addressOutOfRange 0x1000) = true := by decide

/-- M29, M34. -/
theorem test_ld_regs : nextHas
      (run 0xF265 (((regs [(3, 0x77)]).storeBytes 0x400 [0xDE, 0xAD, 0xBE, 0xEF]).setIndex 0x400))
      (fun t => t.reg 0 == 0xDE && t.reg 1 == 0xAD && t.reg 2 == 0xBE && t.reg 3 == 0x77) = true ∧
    nextHas (run 0xF165 (s0.setIndex 0x200)) (fun t => t.reg 0 == 0xF1 && t.reg 1 == 0x65) = true := by decide

/-- M32, and M30 with the default FONT. -/
theorem test_ld_regs_end : faultIs (run 0xF165 (s0.setIndex 0xFFF)) (.addressOutOfRange 0x1000) = true ∧
    nextHas (run 0xF065 (s0.setIndex 0x050)) (fun t => t.reg 0 == 0xF0) = true := by decide

/-! ## Display -/

/-- A sprite at 0x300, `I` there. -/
def sprite (bs : List Byte) (s : State) : State := (s.storeBytes 0x300 bs).setIndex 0x300

/-- G1. -/
theorem test_cls : nextHas (run 0x00E0 (s0.setDisplay (Display.flip Display.clear 63 31)))
    (fun t => t.display == Display.clear && t.drawFlag) = true := by decide

/-- G3: columns wrap at the right edge. -/
theorem test_drw : nextHas (run 0xD011 (sprite [0xFF] (regs [(0, 60), (1, 0), (VF, 9)])))
    (fun t => t.display == Display.clear.set 0 0xF00000000000000F && t.reg VF == 0 && t.drawFlag) = true := by decide

/-- G6: rows wrap at the bottom edge. G8: one collision is enough. -/
theorem test_drw_wrap_collide : nextHas (run 0xD013 (sprite [0xC0, 0xC0, 0xC0] (regs [(0, 62), (1, 30)])))
      (fun t => t.display == ((Display.clear.set 30 0xC000000000000000).set 31 0xC000000000000000).set 0
        0xC000000000000000) = true ∧
    nextHas (run 0xD011 (sprite [0xC0] (s0.setDisplay (Display.flip Display.clear 1 0))))
      (fun t => t.display == Display.clear.set 0 1 && t.reg VF == 1) = true := by decide

/-- G13, G14: a coordinate taken from VF is 0. -/
theorem test_drw_vf : nextHas (run 0xDF11 (sprite [0x80] (regs [(1, 2), (VF, 9)])))
      (fun t => t.display == Display.flip Display.clear 0 2 && t.reg VF == 0) = true ∧
    nextHas (run 0xD1F1 (sprite [0x80] (regs [(1, 3), (VF, 9)])))
      (fun t => t.display == Display.flip Display.clear 3 0) = true := by decide

/-- G9, G16. -/
theorem test_drw_range : nextHas (run 0xD010 ((regs [(VF, 7)]).setIndex 0xFFF))
      (fun t => t.display == Display.clear && t.reg VF == 0 && t.drawFlag) = true ∧
    faultIs (run 0xD012 (s0.setIndex 0xFFF)) (.addressOutOfRange 0x1000) = true := by decide

/-! ## Keys and timers -/

/-- K1, K2. -/
theorem test_skp : nextHas (run 0xE19E (keysDown [5] (regs [(1, 5)]))) (fun t => t.pc == 0x204) = true ∧
    nextHas (run 0xE19E (keysDown [4] (regs [(1, 5)]))) (fun t => t.pc == 0x202) = true := by decide

/-- K3, K4. -/
theorem test_sknp : nextHas (run 0xE1A1 (keysDown [5] (regs [(1, 5)]))) (fun t => t.pc == 0x202) = true ∧
    nextHas (run 0xE1A1 (regs [(1, 5)])) (fun t => t.pc == 0x204) = true := by decide

/-- K6, K7. -/
theorem test_key_index : faultIs (run 0xE19E (regs [(1, 0x10)])) (.keyIndexOutOfRange 0x10) = true ∧
    faultIs (run 0xE1A1 (regs [(1, 0xFF)])) (.keyIndexOutOfRange 0xFF) = true := by decide

/-- K9, K11. -/
theorem test_ld_vx_k : nextHas (run 0xF10A ((regs [(1, 0x33)]).setDelayTimer 5))
      (fun t => t.reg 1 == 0x33 && t.pc == 0x200 && t.delayTimer == 4) = true ∧
    nextHas (run 0xF10A (keysDown [9, 3] (regs [(1, 0x33)]))) (fun t => t.reg 1 == 3 && t.pc == 0x202) = true := by
  decide

/-- K13. -/
theorem test_ld_vx_dt : nextHas (run 0xF107 (s0.setDelayTimer 0x2A))
    (fun t => t.reg 1 == 0x2A && t.delayTimer == 0x29) = true := by decide

/-- K15, K17. -/
theorem test_ld_dt_vx : nextHas (run 0xF115 (regs [(1, 0x10)])) (fun t => t.delayTimer == 0x0F) = true ∧
    nextHas (run 0xF115 (regs [(1, 1)])) (fun t => t.delayTimer == 0) = true := by decide

/-- K18, K19. -/
theorem test_ld_st_vx : nextHas (run 0xF118 (regs [(1, 0x10)])) (fun t => t.soundTimer == 0x0F) = true ∧
    nextHas (run 0xF118 (regs [(1, 1)])) (fun t => t.soundTimer == 0) = true := by decide

/-- K20: both timers tick in any step. -/
theorem test_tick : nextHas (run 0x6000 ((s0.setDelayTimer 3).setSoundTimer 1))
    (fun t => t.delayTimer == 2 && t.soundTimer == 0) = true := by decide

/-- The draw flag of an earlier step is cleared (40 R54). -/
theorem test_draw_flag_cleared : nextHas (run 0x6000 s0.setDrawFlag) (fun t => !t.drawFlag) = true := by decide

/-! ## Host operations -/

/-- O6, and the bytes past the image stay zero. -/
theorem test_load : nextHas (loadProgram [0x12, 0x00] s0)
    (fun t => nextHas (step t) (fun u => u.pc == 0x200 && u.readByte 0x202 == 0)) = true := by decide

/-- O1. -/
theorem test_reset : nextHas (resetOp (regs [(3, 9)])) (fun t => t == s0) = true := by decide

/-- 60 R113. -/
theorem test_fault_codes : (Fault.unknownOpcode 0).code = 1 ∧ (Fault.programTooLarge 0).code = 2 ∧
    (Fault.addressOutOfRange 0).code = 3 ∧ Fault.stackOverflow.code = 4 ∧ Fault.stackUnderflow.code = 5 ∧
    (Fault.keyIndexOutOfRange 0).code = 6 := by decide

/-- 10 R24: glyph 0, glyph A and the last byte of the default FONT. -/
theorem test_font : Memory.readBytes [] 0x050 5 = [0xF0, 0x90, 0x90, 0x90, 0xF0] ∧
    Memory.readBytes [] 0x082 5 = [0xF0, 0x90, 0xF0, 0x90, 0x90] ∧ s0.readByte 0x09F = 0x80 ∧
    s0.readByte 0x0A0 = 0 ∧ s0.readByte 0x04F = 0 := by decide

/-! ## Witnesses: the hypotheses of the statements are met -/

/-- The reset state with the opcode `w` where the next step fetches. -/
def start (w : Nat) : State := s0.withFetchWord 16 w

/-- An instruction other than the given one is at `pc`. -/
theorem not_executes {s : State} {i j : Instr} (hi : s.executes i) (h : i ≠ j) : ¬ s.executes j :=
  fun hj => h (State.executes_unique hi hj)

/-- `start 0x6A12` executes 6xnn. -/
theorem start_ld_imm : (start 0x6A12).executes (.ldImm 0xA 0x12) := ⟨0x6A12, by decide, by decide⟩

/-- EncodeOfDecodeIsIdentity; DecodeFollowsOpcodeMap, its four clauses. -/
theorem witness_decode : decode 0x8AF6 = .ok (.shr 0xA 0xF) ∧
    (∀ r ∈ opcodeMap, r.admits 0x0000 = false) ∧ (∀ r ∈ opcodeMap, r.admits 0xFFFF = false) ∧
    (∃ r ∈ opcodeMap, r.admits 0x00EE = true) ∧ ∃ r ∈ opcodeMap, r.admits 0xF065 = true := by decide

/-- UnknownEncodingsAreTheListedOnes: an opcode of each class is refused, and its neighbours are not. -/
theorem witness_unknown : [0x0FFF, 0x5001, 0x8FFD, 0x800F, 0x9FFF, 0xEFFF, 0xF000].all
      (fun w => decodeTableWord 16 w == none) = true ∧
    [0x00E0, 0x5000, 0x8007, 0x800E, 0x9000, 0xE0A1, 0xF065].all
      (fun w => decodeTableWord 16 w != none) = true := by decide

/-- StepRunsDecodedInstruction: an instruction that answers a next state, and one that faults. -/
theorem witness_step_runs :
    (∃ (s : State) (i : Instr) (u : State), s.executes i ∧ exec i { s with drawFlag := false, pc := s.pc + 2 } = .next u) ∧
    ∃ (s : State) (i : Instr) (f : Fault), s.executes i ∧ exec i { s with drawFlag := false, pc := s.pc + 2 } = .fault f :=
  ⟨⟨start 0x6A12, _, _, start_ld_imm, rfl⟩, start 0x00EE, .ret, _, ⟨0x00EE, by decide, by decide⟩, rfl⟩

/-- StepFaultsOnUnknownOpcode. -/
theorem witness_unknown_step : (start 0x5121).fetch = .ok 0x5121 ∧ ∀ r ∈ opcodeMap, r.admits 0x5121 = false := by
  decide

/-- FetchFaultsBeyondMemory at both values of its clause; FetchReadsBigEndianWord at its last address. -/
theorem witness_fetch : 4096 ≤ (at_ 0xFFF s0).pc.toNat + 1 ∧ (at_ 0xFFF s0).pc.toNat < 4096 ∧
    4096 ≤ (at_ 0x1000 s0).pc.toNat ∧ (at_ 0xFFE s0).pc.toNat + 1 < 4096 := by decide

/-- FetchSeesStoredRegisters, in the middle and at the end of memory. -/
theorem witness_fetch_sees :
    (Memory.wf ((at_ 0x208 s0).setIndex 0x208).memory = true ∧ (0x208 : Nat) + (1 : Reg).val < 4096 ∧
      (1 : Reg) ≤ 1 ∧ (1 : Reg).val = (0 : Reg).val + 1 ∧
      ((at_ 0x208 s0).setIndex 0x208).pc.toNat = ((at_ 0x208 s0).setIndex 0x208).I.toNat + (0 : Reg).val) ∧
    ((15 : Reg) ≤ 15 ∧ (15 : Reg).val = (14 : Reg).val + 1 ∧
      ((at_ 0xFFE s0).setIndex 0xFF0).I.toNat + (15 : Reg).val < 4096 ∧
      ((at_ 0xFFE s0).setIndex 0xFF0).pc.toNat = ((at_ 0xFFE s0).setIndex 0xFF0).I.toNat + (14 : Reg).val) := by
  decide

/-- FaultsAreThoseOfTheInstruction: each of the four clauses is met. -/
theorem witness_faults : exec (.call 0) (called 16 s0) = .fault .stackOverflow ∧
    exec .ret s0 = .fault .stackUnderflow ∧
    exec (.drw 0 1 2) (s0.setIndex 0xFFF) = .fault (.addressOutOfRange 4096) ∧
    exec (.skp 1) (regs [(1, 0x10)]) = .fault (.keyIndexOutOfRange 0x10) :=
  ⟨rfl, rfl, eq_of_faultIs (by decide), rfl⟩

/-- TimersAfterOneStep: a step of Fx15, a step of Fx18, and a step of neither. -/
theorem witness_timers :
    (∃ t, step (start 0xF115) = .next t ∧ (start 0xF115).executes (.ldDtVx 1)) ∧
    (∃ t, step (start 0xF118) = .next t ∧ (start 0xF118).executes (.ldStVx 1)) ∧
    ∃ t, step (start 0x6A12) = .next t ∧ (∀ x, ¬ (start 0x6A12).executes (.ldDtVx x)) ∧
      ∀ x, ¬ (start 0x6A12).executes (.ldStVx x) :=
  ⟨⟨_, rfl, 0xF115, by decide, by decide⟩, ⟨_, rfl, 0xF118, by decide, by decide⟩, _, rfl,
    fun _ => not_executes start_ld_imm (by simp), fun _ => not_executes start_ld_imm (by simp)⟩

/-- DelayTimerAfterQuietSteps: no step, and one step with the timer running. -/
theorem witness_quiet_steps : QuietSteps 0 s0 s0 ∧
    ∃ t, QuietSteps 1 ((start 0x6A12).setDelayTimer 3) t ∧ t.delayTimer = 2 :=
  ⟨.none s0, _, .more (.none _) rfl fun _ => not_executes (i := .ldImm 0xA 0x12)
    ⟨0x6A12, by decide, by decide⟩ (by simp), rfl⟩

/-- A state at the upper ends of the invariant: `I` = 0xFFF, a full stack of 0x1000, `pc` = 0xFFE. -/
def atBounds : State :=
  (((s0.setIndex 0xFFF).setStack (Vector.replicate 16 0x1000) 16).jumpTo 0xFFE).withFetchWord 16 0x6A12

/-- InvariantKeptByStep at the ends of the ranges. -/
theorem witness_invariant : atBounds.Inv ∧ ∃ t, step atBounds = .next t :=
  ⟨⟨by decide, by decide, by decide, by decide⟩, _, rfl⟩

/-- The invariant at its last `pc`, where no step answers a next state. -/
theorem witness_invariant_last_pc : (s0.jumpTo 0x10FE).Inv := ⟨rfl, by decide, by decide, by decide⟩

/-- ReachableStatesMeetInvariant: reset, a load, the keys and a step. -/
theorem witness_reachable : Reachable s0 ∧ ∃ t, Reachable t ∧ t.pc = 0x202 :=
  ⟨.reset, _, .next .step (.next (.writeKeys (Vector.replicate 16 true))
    (.next (.loadProgram [0x6A, 0x12]) .reset rfl) rfl) rfl, rfl⟩

/-- NoStepWritesKeys, OnlyTwoInstructionsWriteMemory, RandomInputMattersOnlyToRnd; and
DrawFlagTellsWhetherTheStepDrew where the step did not draw. -/
theorem witness_plain_step : (∃ t, step (start 0x6A12) = .next t ∧ t.drawFlag = false) ∧
    (∀ x, ¬ (start 0x6A12).executes (.ldB x)) ∧ (∀ x, ¬ (start 0x6A12).executes (.stRegs x)) ∧
    ∀ x nn, ¬ (start 0x6A12).executes (.rnd x nn) :=
  ⟨⟨_, rfl, rfl⟩, fun _ => not_executes start_ld_imm (by simp), fun _ => not_executes start_ld_imm (by simp),
    fun _ _ => not_executes start_ld_imm (by simp)⟩

/-- StackWrittenOnlyByCall: a step that writes an entry, one that only pushes over an equal one, and one that
pops. -/
theorem witness_stack : (∃ t, step (start 0x2300) = .next t ∧ t.stack[(0 : Reg)] ≠ (start 0x2300).stack[(0 : Reg)] ∧
      t.depth ≠ (start 0x2300).depth) ∧
    ∃ t, step (called 1 (start 0x00EE)) = .next t ∧ t.depth ≠ (called 1 (start 0x00EE)).depth :=
  ⟨⟨_, rfl, by decide, by decide⟩, _, rfl, by decide⟩

/-- VfChangedOnlyByItsWriters: an instruction that never writes VF, and one whose destination is another
register. -/
theorem witness_vf : ((Instr.ldI 0).mayWriteVF = false ∧ ∃ t, exec (.ldI 0) s0 = .next t) ∧
    (Instr.ldImm 14 1).mayWriteVF = false ∧ ∃ t, exec (.ldImm 14 1) s0 = .next t :=
  ⟨⟨rfl, _, rfl⟩, rfl, _, rfl⟩

/-- DrawFlagTellsWhetherTheStepDrew where the step drew. -/
theorem witness_drawing_step : (∃ t, step (start 0x00E0) = .next t ∧ t.drawFlag = true) ∧
    (start 0x00E0).executes .cls := ⟨⟨_, rfl, rfl⟩, 0x00E0, by decide, by decide⟩

/-- SelfJumpChangesOnlyTimers, at 0x200 and at the last address. -/
theorem witness_self_jump : (start 0x1200).atSelfJump ∧ ((at_ 0xFFE s0).withFetchWord 16 0x1FFE).atSelfJump :=
  ⟨⟨by decide, by decide, by decide⟩, by decide, by decide, by decide⟩

/-- LoadProgramCopiesTheImage: no byte, the longest image, and one byte more. -/
theorem witness_load : ([] : List Byte).length ≤ 3584 ∧ (List.replicate 3584 (0xAA : Byte)).length ≤ 3584 ∧
    Memory.wf s0.memory = true ∧ 3584 < (List.replicate 3585 (0xAA : Byte)).length := by
  rw [List.length_replicate, List.length_replicate]
  decide

/-- JpJumps and JpV0AddsRegisterZero where the next fetch faults: the least sum and the greatest. -/
theorem witness_jumps : (0xFFF#12 : Imm12) = 0xFFF#12 ∧ 0xFFF ≤ (0xFFF#12).toNat + (s0.reg 0).toNat ∧
    0xFFF ≤ (0xFFF#12).toNat + ((regs [(0, 0xFF)]).reg 0).toNat := by decide

/-- CallPushesAndJumps, RetPops and RetAfterCallReturns at the ends of the stack. -/
theorem witness_stack_ends : (called 0 s0).depth.val = (0 : Reg).val ∧ (called 15 s0).depth.val = (15 : Reg).val ∧
    (called 16 s0).depth.val = 16 ∧ (called 1 s0).depth.val = (0 : Reg).val + 1 ∧
    (called 16 s0).depth.val = (15 : Reg).val + 1 ∧ (called 15 s0).depth.val < 16 := by decide

/-- RetAfterCallReturns: the state after the call itself has the call's stack. -/
theorem witness_ret_after_call : ∃ t u : State, exec (.call 0) (called 15 s0) = .next t ∧ u.stack = t.stack ∧
    u.depth = t.depth := ⟨_, _, rfl, rfl, rfl⟩

/-- AddRegSetsCarry, SubSetsNotBorrow, SubnSetsNotBorrow, ShiftsSetTheBitShiftedOut and DrwXorsTheSprite: the
first and the last register that is not VF. RndMasksAFreeByte: an immediate with a 0 bit. -/
theorem witness_not_vf : (0 : Reg) ≠ VF ∧ (14 : Reg) ≠ VF ∧ (0xFE : Byte).getLsbD 0 = false := by decide

/-- LdBStoresDecimalDigits: the last `I` that fits, and the two that do not. -/
theorem witness_ld_b : (s0.setIndex 0xFFD).I.toNat + 2 < 4096 ∧ Memory.wf (s0.setIndex 0xFFD).memory = true ∧
    4096 ≤ (s0.setIndex 0xFFE).I.toNat + 2 ∧ 4096 ≤ (s0.setIndex 0xFFF).I.toNat + 2 := by decide

/-- StRegsStoresRegisters, LdRegsLoadsRegisters and StoreThenLoadRestoresRegisters, with one register and with
sixteen: the last `I` that fits and the first that does not. -/
theorem witness_regs_range : (s0.setIndex 0xFFF).I.toNat + (0 : Reg).val < 4096 ∧
    (s0.setIndex 0xFF0).I.toNat + (15 : Reg).val < 4096 ∧ Memory.wf (s0.setIndex 0xFF0).memory = true ∧
    4096 ≤ (s0.setIndex 0xFFF).I.toNat + (1 : Reg).val ∧ 4096 ≤ (s0.setIndex 0xFF1).I.toNat + (15 : Reg).val ∧
    (15 : Reg) ≤ 15 ∧ (0 : Reg) ≤ 0 := by decide

/-- StoreThenLoadRestoresRegisters: the state after the store itself has its memory and `I`. -/
theorem witness_store_then_load : ∃ t u : State, exec (.stRegs 15) (s0.setIndex 0xFF0) = .next t ∧
    u.memory = t.memory ∧ u.I = (s0.setIndex 0xFF0).I := ⟨_, _, rfl, rfl, rfl⟩

/-- RangeFaultRecordsLowestAddress: each clause, and an `I` above 0xFFF, which no run reaches. -/
theorem witness_range_fault : 4096 < (s0.setIndex 0xFFE).I.toNat + 3 ∧
    4096 < (s0.setIndex 0xFFF).I.toNat + ((1 : Reg).val + 1) ∧ (2 : Nibble) ≠ 0 ∧
    4096 < (s0.setIndex 0xFFF).I.toNat + (2 : Nibble).toNat ∧ 4096 < (s0.setIndex 0x2000).I.toNat + 3 := by decide

/-- DrwXorsTheSprite, DrwReadsClearedFlagAsCoordinate and DrawingTwiceRestoresTheDisplay: no row at all, a
sprite that ends at 0xFFF, and one that goes beyond. -/
theorem witness_drw_range : ((0 : Nibble).toNat = 0 ∨ (s0.setIndex 0xFFF).I.toNat + (0 : Nibble).toNat ≤ 4096) ∧
    ((15 : Nibble).toNat = 0 ∨ (s0.setIndex 0xFF1).I.toNat + (15 : Nibble).toNat ≤ 4096) ∧
    1 ≤ (2 : Nibble).toNat ∧ 4096 ≤ (s0.setIndex 0xFFF).I.toNat + (2 : Nibble).toNat - 1 ∧
    ((15 : Reg) = VF ∨ (0 : Reg) = VF) := by decide

/-- DrawnFrom: the sprite 0x81 at column 60, row 31 covers a pixel before the edge and one behind it. -/
theorem witness_sprite_covers : (sprite [0x81] s0).spriteCovers 60 31 1 60 31 ∧
    (sprite [0x81] s0).spriteCovers 60 31 1 3 31 :=
  ⟨⟨0, 0, by decide, by decide, by decide, by decide, by decide⟩,
    0, 7, by decide, by decide, by decide, by decide, by decide⟩

/-- DrawingTwiceRestoresTheDisplay: a clear display, and a sprite with a 1 bit. -/
theorem witness_drawing_twice : (∀ px py, Display.pixel (sprite [0x01] s0).display px py = false) ∧
    ∃ row col, row < (1 : Nibble).toNat ∧ col < 8 ∧
      ((sprite [0x01] s0).readByte ((sprite [0x01] s0).I.toNat + row)).getLsbD (7 - col) = true :=
  ⟨fun px py => by simp [sprite, State.setIndex, State.storeBytes, State.reset, Display.pixel],
    0, 7, by decide, by decide, by decide⟩

/-- KeySkips: key 0, key 15, and the first number that is no key. -/
theorem witness_key_skips : (s0.reg 1).toNat = (0 : Reg).val ∧ ((regs [(1, 15)]).reg 1).toNat = (15 : Reg).val ∧
    15 < ((regs [(1, 16)]).reg 1).toNat := by decide

/-- KeyWaitTakesLowestOrRetries: several keys down, the highest alone, and none. -/
theorem witness_key_wait : ((keysDown [3, 9] s0).keyDown 3 = true ∧
      ∀ j : Reg, j < 3 → (keysDown [3, 9] s0).keyDown j = false) ∧
    ((keysDown [15] s0).keyDown 15 = true ∧ ∀ j : Reg, j < 15 → (keysDown [15] s0).keyDown j = false) ∧
    (∀ k, (start 0xF30A).keyDown k = false) ∧ (start 0xF30A).executes (.ldVxK 3) :=
  ⟨⟨by decide, by decide⟩, ⟨by decide, by decide⟩, by decide, 0xF30A, by decide, by decide⟩

/-- TimerAccess: each of the three executes. -/
theorem witness_timer_access : (start 0xF107).executes (.ldVxDt 1) ∧ (start 0xF115).executes (.ldDtVx 1) ∧
    (start 0xF118).executes (.ldStVx 1) :=
  ⟨⟨0xF107, by decide, by decide⟩, ⟨0xF115, by decide, by decide⟩, 0xF118, by decide, by decide⟩

end Sys2Proof.Tests
end

/-! # Proofs: the invariant and the noninterference rules of 10_state.md

`exec_next` says once what each instruction does to the state. Here it is turned into what an instruction keeps:
the invariant of 10 R26, the keys, the stack and VF; each obligation then follows through `step_next_cases`. -/

section
namespace Sys2Proof.Machine

variable {s t : State} {i : Instr}

/-! ## The invariant through the updates of the state -/

/-- After reset memory is empty, `I` is 0, `pc` is 0x200 and no stack entry is in use. -/
theorem State.Inv.reset : State.reset.Inv :=
  ⟨State.wf_reset, by decide, by decide, fun _ hk => absurd hk (Nat.not_lt_zero _)⟩

/-- The invariant speaks of memory, `I`, `pc` and the stack only. -/
theorem State.Inv.congr (h : s.Inv) (hm : t.memory = s.memory) (hI : t.I = s.I) (hpc : t.pc = s.pc)
    (hst : t.stack = s.stack) (hd : t.depth = s.depth) : t.Inv := by
  unfold State.Inv
  rw [hm, hI, hpc, hst, hd]
  exact h

theorem State.Inv.setReg (h : s.Inv) (x : Reg) (v : Byte) : (s.setReg x v).Inv := h.congr rfl rfl rfl rfl rfl

theorem State.Inv.loadRegsThrough (h : s.Inv) (x : Reg) (a : Nat) : (s.loadRegsThrough x a).Inv :=
  h.congr (by simp) (by simp) (by simp) (by simp) (by simp)

theorem State.Inv.setIndex (h : s.Inv) {a : Word} (ha : a.toNat ≤ 0xFFF) : (s.setIndex a).Inv :=
  let ⟨hmem, _, hpc, hstack⟩ := h
  ⟨hmem, ha, hpc, hstack⟩

theorem State.Inv.jumpTo (h : s.Inv) {a : Word} (ha : a.toNat ≤ 0x10FE) : (s.jumpTo a).Inv :=
  let ⟨hmem, hI, _, hstack⟩ := h
  ⟨hmem, hI, ha, hstack⟩

/-- The address after an instruction that was fetched is at most 0x1000, so a skip ends at most at 0x1002. -/
theorem State.Inv.skipIf (h : s.Inv) (hpc : s.pc.toNat ≤ 0x1000) (c : Bool) : (s.skipIf c).Inv := by
  cases c with
  | false => exact h
  | true => exact h.jumpTo (a := s.pc + 2) (by bv_omega)

theorem State.Inv.storeBytes (h : s.Inv) (a : Nat) (bs : List Byte) : (s.storeBytes a bs).Inv :=
  let ⟨hmem, hrest⟩ := h
  ⟨State.wf_storeBytes hmem a bs, hrest⟩

/-- A push of a return address of at most 0x1000: the new top entry meets the bound, the others did before. -/
theorem State.Inv.push (h : s.Inv) (hd : s.depth.val < 16) {a : Word} (ha : a.toNat ≤ 0x1000) :
    (s.setStack (s.stack.set s.depth.val a hd) ⟨s.depth.val + 1, by omega⟩).Inv := by
  obtain ⟨hmem, hI, hpc, hstack⟩ := h
  refine ⟨hmem, hI, hpc, fun k hk => ?_⟩
  simp only [State.setStack_stack, State.setStack_depth, Fin.getElem_fin, Vector.getElem_set] at hk ⊢
  split
  · exact ha
  · exact hstack k (by omega)

/-- A pop uses fewer entries, and the one it takes off is a possible `pc`. -/
theorem State.Inv.pop (h : s.Inv) {d : Nat} (hd : d < 16) (hdepth : s.depth.val = d + 1) :
    ((s.setStack s.stack ⟨d, by omega⟩).jumpTo s.stack[d]).Inv := by
  obtain ⟨hmem, hI, hpc, hstack⟩ := h
  have htop : s.stack[d].toNat ≤ 0x1000 := hstack ⟨d, hd⟩ (hdepth ▸ Nat.lt_succ_self d)
  refine ⟨hmem, hI, ?_, fun k hk => hstack k ?_⟩
  · rw [State.jumpTo_pc]; omega
  · simp only [State.jumpTo_depth, State.setStack_depth] at hk; omega

/-! ## The invariant through the phases of a step -/

/-- 1nnn and 2nnn reach at most 0xFFF. -/
theorem toNat_addressOf_le (nnn : Imm12) : (addressOf nnn).toNat ≤ 0xFFF := by
  unfold addressOf; bv_omega

/-- Bnnn reaches at most 0xFFF + 0xFF, the bound of 10 R26 on `pc`. -/
theorem toNat_addressOf_add_widen_le (nnn : Imm12) (v : Byte) : (addressOf nnn + widen v).toNat ≤ 0x10FE := by
  unfold addressOf widen; bv_omega

/-- Phase P5 keeps the invariant. `pc` is the address after the instruction that was fetched, from 2 to 0x1000:
a call pushes it, a skip adds 2 to it, and a key wait takes 2 from it. -/
theorem State.Inv.exec (hs : s.Inv) (hlo : 2 ≤ s.pc.toNat) (hhi : s.pc.toNat ≤ 0x1000)
    (h : exec i s = .next t) : t.Inv := by
  have hn := exec_next h
  cases i with
  | ret => obtain ⟨d, hd, hdepth, rfl⟩ := hn; exact hs.pop hd hdepth
  | call nnn =>
    obtain ⟨hd, rfl⟩ := hn
    exact (hs.push hd hhi).jumpTo ((toNat_addressOf_le nnn).trans (by decide))
  | jp nnn => obtain rfl := hn; exact hs.jumpTo ((toNat_addressOf_le nnn).trans (by decide))
  | jpV0 nnn => obtain rfl := hn; exact hs.jumpTo (toNat_addressOf_add_widen_le nnn _)
  | seImm | sneImm | seReg | sneReg | skp | sknp => obtain ⟨c, rfl⟩ := hn; exact hs.skipIf hhi c
  | ldVxK x =>
    obtain ⟨k, _, rfl⟩ | ⟨_, rfl⟩ := hn
    · exact hs.setReg _ _
    · exact hs.jumpTo (by bv_omega)
  | ldI nnn => obtain rfl := hn; exact hs.setIndex (toNat_addressOf_le nnn)
  | ldF => obtain ⟨a, ha, rfl⟩ := hn; exact hs.setIndex ha
  | addI =>
    obtain ⟨a, ha, rfl | rfl⟩ := hn
    · exact hs.setIndex ha
    · exact (hs.setIndex ha).setReg _ _
  | ldB | stRegs => obtain ⟨_, rfl⟩ := hn; exact hs.storeBytes _ _
  | ldImm | addImm | ldReg | or | and | xor => obtain ⟨v, rfl⟩ := hn; exact hs.setReg _ v
  | addReg | sub | shr | subn | shl => obtain ⟨f, v, rfl⟩ := hn; exact (hs.setReg _ f).setReg _ v
  | drw => obtain ⟨_, d, v, rfl⟩ := hn; exact hs.congr rfl rfl rfl rfl rfl
  | ldRegs => obtain ⟨_, rfl⟩ := hn; exact hs.loadRegsThrough _ _
  | cls | rnd | ldVxDt | ldDtVx | ldStVx => obtain rfl := hn; exact hs.congr rfl rfl rfl rfl rfl

/-- A step keeps the invariant: the fetch found both bytes, so the advanced `pc` is from 2 to 0x1000. -/
theorem State.Inv.step (hs : s.Inv) (h : step s = .next t) : t.Inv := by
  obtain ⟨op, i, u, hf, -, hu, rfl⟩ := step_next_cases h
  obtain ⟨hpc, -⟩ := (fetch_eq_ok_iff s op).mp hf
  have hadv : s.beginStep.pc.toNat = s.pc.toNat + 2 := by rw [State.beginStep_pc]; bv_omega
  obtain ⟨hmem, hI, -, hstack⟩ := hs
  have hbegin : s.beginStep.Inv := ⟨hmem, hI, by omega, hstack⟩
  exact (hbegin.exec (by omega) (by omega) hu).congr rfl rfl rfl rfl rfl

/-- Every interaction of the host that ends Ok keeps the invariant. -/
theorem State.Inv.hostOp {op : HostOp} (hs : s.Inv) (h : hostOp op s = .next t) : t.Inv := by
  cases op with
  | reset =>
    obtain rfl := Host.Outcome.next.inj h
    exact State.Inv.reset.congr rfl rfl rfl rfl rfl
  | loadProgram bytes =>
    simp only [Machine.hostOp, loadProgram, raise] at h
    split at h
    · simp at h
    · obtain rfl := Host.Outcome.next.inj h
      exact hs.storeBytes _ _
  | writeKeys keys =>
    obtain rfl := Host.Outcome.next.inj h
    exact hs.congr rfl rfl rfl rfl rfl
  | step => exact hs.step h

/-! ## Keys, stack and VF through an instruction -/

/-- A write of one register leaves every other as it was. -/
theorem State.reg_setReg_of_ne (s : State) {x k : Reg} (v : Byte) (h : x ≠ k) : (s.setReg x v).reg k = s.reg k := by
  rw [State.reg_setReg, if_neg h.symm]

/-- Every instruction but 2nnn and 00EE leaves the keys and the stack as they were. -/
theorem exec_keys_stack_depth (h : exec i s = .next t) (hcall : ∀ nnn, i ≠ .call nnn) (hret : i ≠ .ret) :
    t.keys = s.keys ∧ t.stack = s.stack ∧ t.depth = s.depth := by
  have hn := exec_next h
  cases i with
  | ret => exact absurd rfl hret
  | call nnn => exact absurd rfl (hcall nnn)
  | seImm | sneImm | seReg | sneReg | skp | sknp => obtain ⟨c, rfl⟩ := hn; simp
  | ldRegs => obtain ⟨_, rfl⟩ := hn; simp
  | ldVxK => obtain ⟨k, _, rfl⟩ | ⟨_, rfl⟩ := hn <;> exact ⟨rfl, rfl, rfl⟩
  | ldF => obtain ⟨a, _, rfl⟩ := hn; exact ⟨rfl, rfl, rfl⟩
  | addI => obtain ⟨a, _, rfl | rfl⟩ := hn <;> exact ⟨rfl, rfl, rfl⟩
  | ldImm | addImm | ldReg | or | and | xor => obtain ⟨v, rfl⟩ := hn; exact ⟨rfl, rfl, rfl⟩
  | addReg | sub | shr | subn | shl => obtain ⟨f, v, rfl⟩ := hn; exact ⟨rfl, rfl, rfl⟩
  | drw => obtain ⟨_, d, v, rfl⟩ := hn; exact ⟨rfl, rfl, rfl⟩
  | ldB | stRegs => obtain ⟨_, rfl⟩ := hn; exact ⟨rfl, rfl, rfl⟩
  | cls | jp | jpV0 | ldI | rnd | ldVxDt | ldDtVx | ldStVx => obtain rfl := hn; exact ⟨rfl, rfl, rfl⟩

/-- No instruction writes the keys. -/
theorem exec_keys (h : exec i s = .next t) : t.keys = s.keys := by
  cases i with
  | ret => obtain ⟨d, hd, _, rfl⟩ := exec_ret_next h; rfl
  | call => obtain ⟨hd, rfl⟩ := exec_call_next h; rfl
  | _ => exact (exec_keys_stack_depth h (by simp) (by simp)).1

/-- What an instruction does to the stack: 2nnn pushes `pc`, 00EE drops the top entry and keeps its value, and
every other one leaves the stack as it was. -/
def StackForm (i : Instr) (s t : State) : Prop :=
  match i with
  | .call _ => ∃ hd : s.depth.val < 16,
      t.stack = s.stack.set s.depth.val s.pc hd ∧ t.depth.val = s.depth.val + 1
  | .ret => t.stack = s.stack ∧ t.depth.val + 1 = s.depth.val
  | _ => t.stack = s.stack ∧ t.depth = s.depth

/-- Each instruction's next state has the form that `StackForm` gives it. -/
theorem exec_stack (h : exec i s = .next t) : StackForm i s t := by
  cases i with
  | ret => obtain ⟨d, hd, hdepth, rfl⟩ := exec_ret_next h; exact ⟨rfl, hdepth.symm⟩
  | call => obtain ⟨hd, rfl⟩ := exec_call_next h; exact ⟨hd, rfl, rfl⟩
  | _ => exact (exec_keys_stack_depth h (by simp) (by simp)).2

/-- An instruction that neither writes VF as a flag nor has it as a destination leaves it as it was: its
destinations, if any, are other registers. -/
theorem exec_vf (h : exec i s = .next t) (hi : i.mayWriteVF = false) : t.reg VF = s.reg VF := by
  have hn := exec_next h
  cases i with
  | addReg | sub | shr | subn | shl | drw | addI => exact absurd hi (by simp [Instr.mayWriteVF])
  | ldImm x | addImm x | ldReg x | or x | and x | xor x =>
    obtain ⟨v, rfl⟩ := hn; exact State.reg_setReg_of_ne s v (ne_of_beq_false hi)
  | rnd x => obtain rfl := hn; exact State.reg_setReg_of_ne _ _ (ne_of_beq_false hi)
  | ldVxDt x => obtain rfl := hn; exact State.reg_setReg_of_ne _ _ (ne_of_beq_false hi)
  | ldVxK x =>
    obtain ⟨k, _, rfl⟩ | ⟨_, rfl⟩ := hn
    · exact State.reg_setReg_of_ne _ _ (ne_of_beq_false hi)
    · exact State.reg_jumpTo s _ VF
  | ldRegs x =>
    obtain ⟨_, rfl⟩ := hn
    have hx : ¬ VF ≤ x := fun hle => ne_of_beq_false hi (le_antisymm (Fin.le_last x) hle)
    rw [State.reg_loadRegsThrough, if_neg hx]
  | seImm | sneImm | seReg | sneReg | skp | sknp => obtain ⟨c, rfl⟩ := hn; exact State.reg_skipIf s c VF
  | ret => obtain ⟨d, hd, _, rfl⟩ := hn; rfl
  | call => obtain ⟨hd, rfl⟩ := hn; rfl
  | ldF => obtain ⟨a, _, rfl⟩ := hn; rfl
  | ldB | stRegs => obtain ⟨_, rfl⟩ := hn; rfl
  | cls | jp | jpV0 | ldI | ldDtVx | ldStVx => obtain rfl := hn; rfl

/-! ## The obligations -/

/-- Settles O16: the base case of the invariant. -/
theorem resetMeetsInvariant : Obligations.ResetMeetsInvariant := State.Inv.reset

/-- Settles O15: `State.Inv.step`, which rests on the invariant through phase P5. -/
theorem invariantKeptByStep : Obligations.InvariantKeptByStep := fun _ _ hs h => hs.step h

/-- Settles O17, by induction on how the state was reached. -/
theorem reachableStatesMeetInvariant : Obligations.ReachableStatesMeetInvariant := by
  intro s hs
  induction hs with
  | reset => exact State.Inv.reset
  | next op _ h ih => exact ih.hostOp h

/-- Settles O18: neither the instruction nor the phases around it write the keys. -/
theorem noStepWritesKeys : Obligations.NoStepWritesKeys := by
  intro s t h k
  obtain ⟨op, i, u, -, -, hu, rfl⟩ := step_next_cases h
  rw [State.keyDown_tick, State.keyDown_congr (exec_keys hu), State.keyDown_beginStep]

/-- Settles O20, from what the executed instruction does to the stack. -/
theorem stackWrittenOnlyByCall : Obligations.StackWrittenOnlyByCall := by
  intro s t h
  obtain ⟨op, i, u, hf, hd, hu, rfl⟩ := step_next_cases h
  have hi : s.executes i := ⟨op, hf, hd⟩
  have hstack := exec_stack hu
  cases i with
  | call nnn =>
    obtain ⟨hdepth, hst, hgrow⟩ := hstack
    refine ⟨fun k hk => ⟨?_, nnn, hi⟩, fun _ => .inl ⟨hgrow, nnn, hi⟩⟩
    by_contra hne
    exact hk ((congrArg (·[k]) hst).trans (Vector.getElem_set_ne hdepth k.isLt (Ne.symm hne)))
  | ret =>
    obtain ⟨hst, hshrink⟩ := hstack
    exact ⟨fun k hk => absurd (congrArg (·[k]) hst) hk, fun _ => .inr ⟨hshrink, hi⟩⟩
  | _ =>
    obtain ⟨hst, hdepth⟩ := hstack
    exact ⟨fun k hk => absurd (congrArg (·[k]) hst) hk, fun hne => absurd hdepth hne⟩

/-- Settles O21: `exec_vf`, by the form of each instruction's next state. -/
theorem vfChangedOnlyByItsWriters : Obligations.VfChangedOnlyByItsWriters := fun _ _ _ h hi => exec_vf h hi

end Sys2Proof.Machine
end

/-! # Proofs: the memory rules of 20_memory.md

What a store leaves in memory and what the next fetch finds there; and which instructions store at all. -/

section
namespace Sys2Proof.Machine

variable {s t : State} {i : Instr}

/-! ## Reading after a store -/

/-- A read after a store of bytes that exist: inside the run its byte, outside as before. -/
theorem State.readByte_storeBytes (h : Memory.wf s.memory = true) {a : Nat} {bs : List Byte}
    (hfit : a + bs.length ≤ 4096) (c : Nat) :
    (s.storeBytes a bs).readByte c = if a ≤ c ∧ c < a + bs.length then bs.getD (c - a) 0 else s.readByte c :=
  Memory.read_writeBytes h c bs a hfit

/-- After `V[0]` to `V[x]` are stored from `a` up, the byte at `a + k` is `V[k]`. -/
theorem State.readByte_storeBytes_regsThrough (h : Memory.wf s.memory = true) {a : Nat} {x k : Reg}
    (hfit : a + x.val < 4096) (hk : k ≤ x) :
    (s.storeBytes a (s.regsThrough x)).readByte (a + k.val) = s.reg k := by
  have hkx : k.val ≤ x.val := hk
  rw [State.readByte_storeBytes h (by rw [length_regsThrough]; omega),
    if_pos (by rw [length_regsThrough]; omega), Nat.add_sub_cancel_left, getD_regsThrough s hk]

/-- Fx55 completes when the highest byte it stores to exists. -/
theorem exec_stRegs_of_fits {x : Reg} (hfit : s.I.toNat + x.val < 4096) :
    exec (.stRegs x) s = .next (s.storeBytes s.I.toNat (s.regsThrough x)) :=
  withRange_of_fits (.inr (by omega))

/-! ## Memory through an instruction -/

/-- Every instruction but Fx33 and Fx55 leaves memory as it was. -/
theorem exec_memory (h : exec i s = .next t) (hldB : ∀ x, i ≠ .ldB x) (hstRegs : ∀ x, i ≠ .stRegs x) :
    t.memory = s.memory := by
  have hn := exec_next h
  cases i with
  | ldB x => exact absurd rfl (hldB x)
  | stRegs x => exact absurd rfl (hstRegs x)
  | ret => obtain ⟨d, hd, _, rfl⟩ := hn; rfl
  | call => obtain ⟨hd, rfl⟩ := hn; rfl
  | seImm | sneImm | seReg | sneReg | skp | sknp => obtain ⟨c, rfl⟩ := hn; exact State.skipIf_memory s c
  | ldRegs => obtain ⟨_, rfl⟩ := hn; rfl
  | ldVxK => obtain ⟨k, _, rfl⟩ | ⟨_, rfl⟩ := hn <;> rfl
  | ldF => obtain ⟨a, _, rfl⟩ := hn; rfl
  | addI => obtain ⟨a, _, rfl | rfl⟩ := hn <;> rfl
  | ldImm | addImm | ldReg | or | and | xor => obtain ⟨v, rfl⟩ := hn; rfl
  | addReg | sub | shr | subn | shl => obtain ⟨f, v, rfl⟩ := hn; rfl
  | drw => obtain ⟨_, d, v, rfl⟩ := hn; rfl
  | cls | jp | jpV0 | ldI | rnd | ldVxDt | ldDtVx | ldStVx => obtain rfl := hn; rfl

/-! ## The obligations -/

/-- Settles O10: the fetch reads the two bytes of the store at `I + k` and `I + k + 1`. -/
theorem fetchSeesStoredRegisters : Obligations.FetchSeesStoredRegisters := by
  intro x k l s hwf hfit hl hkl hpc
  have hlx : l.val ≤ x.val := hl
  have hk : k ≤ x := Fin.le_def.mpr (by omega)
  have hnext : s.pc.toNat + 1 = s.I.toNat + l.val := by omega
  refine ⟨_, exec_stRegs_of_fits hfit, (fetch_eq_ok_iff _ _).mpr ⟨?_, ?_⟩⟩
  · rw [State.storeBytes_pc]; omega
  · rw [State.storeBytes_pc, hnext, hpc, State.readByte_storeBytes_regsThrough hwf hfit hk,
      State.readByte_storeBytes_regsThrough hwf hfit hl]

/-- Settles O19: the executed instruction is neither of the two that store, and the phases around it do not
touch memory. -/
theorem onlyTwoInstructionsWriteMemory : Obligations.OnlyTwoInstructionsWriteMemory := by
  intro s t h hldB hstRegs a
  obtain ⟨op, i, u, hf, hd, hu, rfl⟩ := step_next_cases h
  have hi : s.executes i := ⟨op, hf, hd⟩
  have hmem : u.memory = s.beginStep.memory :=
    exec_memory hu (fun x e => hldB x (e ▸ hi)) (fun x e => hstRegs x (e ▸ hi))
  rw [State.readByte_tick, State.readByte_congr hmem, State.readByte_beginStep]

end Sys2Proof.Machine
end

/-! # Proofs: the encoding rules of 30_encoding.md

An opcode is determined by the fields of its format (30 R44, R45): the formats put together again from the fields
of an opcode give the opcode back. From this, a decoded opcode is the encoding of its instruction, and an opcode a
row of the map admits is the encoding of an instruction of that row; what decodes is then known from `decode_encode`. -/

section
namespace Sys2Proof

variable {op : Word} {t n : Nibble} {nn : Byte} {i : Instr} {e : DecodeError} {m : String}

/-! ## An opcode from its fields -/

/-- Format NNN: the literal top nibble and the field `nnn` are the whole opcode. -/
theorem encodeNNN_fields (ht : fieldTop op = t) : encodeNNN t (fieldNnn op) = op := by
  subst ht
  apply BitVec.eq_of_toNat_eq
  rw [toNat_encodeNNN, toNat_fieldTop, toNat_fieldNnn]; omega

/-- Format XNN, where `nn` is a field or a literal. -/
theorem encodeXNN_fields (ht : fieldTop op = t) (hnn : fieldNn op = nn) : encodeXNN t (fieldX op) nn = op := by
  subst ht hnn
  apply BitVec.eq_of_toNat_eq
  rw [toNat_encodeXNN, toNat_fieldTop, val_fieldX, toNat_fieldNn]; omega

/-- Formats XY and XYN, where `n` is a field or a literal. -/
theorem encodeXYN_fields (ht : fieldTop op = t) (hn : fieldN op = n) :
    encodeXYN t (fieldX op) (fieldY op) n = op := by
  subst ht hn
  apply BitVec.eq_of_toNat_eq
  rw [toNat_encodeXYN, toNat_fieldTop, val_fieldX, val_fieldY, toNat_fieldN]; omega

/-! ## Decoding an encoding -/

/-- The decoder reads the top nibble, then the literals of the format, then the operands: each is a field of the
encoded word, and the field lemmas give it back. -/
theorem decode_encode (i : Instr) : decode (encode i) = .ok i := by
  cases i with
  | cls | ret => rfl
  | jp | call | ldI | jpV0 => simp [encode, decode]
  | seImm | sneImm | ldImm | addImm | rnd => simp [encode, decode]
  | drw => simp [encode, decode]
  | seReg => simp [encode, decode, decode5]
  | ldReg | or | and | xor | addReg | sub | shr | subn | shl => simp [encode, decode, decode8]
  | sneReg => simp [encode, decode, decode9]
  | skp | sknp => simp [encode, decode, decodeE]
  | ldVxDt | ldDtVx | ldStVx | addI | ldVxK | ldF | ldB | stRegs | ldRegs => simp [encode, decode, decodeF]

/-! ## Encoding what was decoded -/

theorem encode_of_decode0 (h : decode0 op = .ok i) : encode i = op := by
  unfold decode0 at h
  split_ifs at h with hcls hret
  · cases h; exact hcls.symm
  · cases h; exact hret.symm

theorem encode_of_decode5 (ht : fieldTop op = 0x5) (h : decode5 op = .ok i) : encode i = op := by
  unfold decode5 at h
  split_ifs at h with hn
  cases h; exact encodeXYN_fields ht hn

theorem encode_of_decode8 (ht : fieldTop op = 0x8) (h : decode8 op = .ok i) : encode i = op := by
  unfold decode8 at h
  split at h <;> cases h
  all_goals exact encodeXYN_fields ht (BitVec.eq_of_toNat_eq ‹_›)

theorem encode_of_decode9 (ht : fieldTop op = 0x9) (h : decode9 op = .ok i) : encode i = op := by
  unfold decode9 at h
  split_ifs at h with hn
  cases h; exact encodeXYN_fields ht hn

theorem encode_of_decodeE (ht : fieldTop op = 0xE) (h : decodeE op = .ok i) : encode i = op := by
  unfold decodeE at h
  split at h <;> cases h
  all_goals exact encodeXNN_fields ht (BitVec.eq_of_toNat_eq ‹_›)

theorem encode_of_decodeF (ht : fieldTop op = 0xF) (h : decodeF op = .ok i) : encode i = op := by
  unfold decodeF at h
  split at h <;> cases h
  all_goals exact encodeXNN_fields ht (BitVec.eq_of_toNat_eq ‹_›)

/-- Each arm of the decoder fixes the top nibble, and keeps every field below it that is not a literal. -/
theorem encode_of_decode (h : decode op = .ok i) : encode i = op := by
  unfold decode at h
  split at h
  case h_1 => exact encode_of_decode0 h
  case h_6 ht => exact encode_of_decode5 (BitVec.eq_of_toNat_eq ht) h
  case h_9 ht => exact encode_of_decode8 (BitVec.eq_of_toNat_eq ht) h
  case h_10 ht => exact encode_of_decode9 (BitVec.eq_of_toNat_eq ht) h
  case h_15 ht => exact encode_of_decodeE (BitVec.eq_of_toNat_eq ht) h
  case h_16 ht => exact encode_of_decodeF (BitVec.eq_of_toNat_eq ht) h
  case h_2 ht | h_3 ht | h_11 ht | h_12 ht => cases h; exact encodeNNN_fields (BitVec.eq_of_toNat_eq ht)
  case h_4 ht | h_5 ht | h_7 ht | h_8 ht | h_13 ht =>
    cases h; exact encodeXNN_fields (BitVec.eq_of_toNat_eq ht) rfl
  case h_14 ht => cases h; exact encodeXYN_fields (BitVec.eq_of_toNat_eq ht) rfl
  case h_17 => cases h

/-! ## What the rows of the opcode map admit

The bits a mask keeps are the encoding, in the format of the mask, of the literals with operands 0; so the two
encodings can be compared field by field. -/

theorem and_F000_eq_encodeNNN (op : Word) : op &&& 0xF000#16 = encodeNNN (fieldTop op) 0 := by
  apply BitVec.eq_of_toNat_eq
  rw [toNat_and_F000, toNat_encodeNNN, toNat_fieldTop]; simp

theorem and_F00F_eq_encodeXYN (op : Word) : op &&& 0xF00F#16 = encodeXYN (fieldTop op) 0 0 (fieldN op) := by
  apply BitVec.eq_of_toNat_eq
  rw [toNat_and_F00F, toNat_encodeXYN, toNat_fieldTop, toNat_fieldN]; simp

theorem and_F0FF_eq_encodeXNN (op : Word) : op &&& 0xF0FF#16 = encodeXNN (fieldTop op) 0 (fieldNn op) := by
  apply BitVec.eq_of_toNat_eq
  rw [toNat_and_F0FF, toNat_encodeXNN, toNat_fieldTop, toNat_fieldNn]; simp

/-- A row with every bit literal admits its value alone. -/
theorem eq_of_admits_FFFF {v : Word} (h : OpcodeRow.admits ⟨m, 0xFFFF#16, v⟩ op = true) : v = op :=
  (eq_of_beq h).symm.trans (BitVec.and_allOnes (x := op))

/-- A row of mask 0xF000 fixes the top nibble; every field below it is free. -/
theorem fieldTop_of_admits_F000 (h : OpcodeRow.admits ⟨m, 0xF000#16, encodeNNN t 0⟩ op = true) :
    fieldTop op = t := by
  have he := (and_F000_eq_encodeNNN op).symm.trans (eq_of_beq h)
  simpa using congrArg fieldTop he

theorem encodeNNN_of_admits (t : Nibble) (h : OpcodeRow.admits ⟨m, 0xF000#16, encodeNNN t 0⟩ op = true) :
    encodeNNN t (fieldNnn op) = op := encodeNNN_fields (fieldTop_of_admits_F000 h)

theorem encodeXNN_field_of_admits (t : Nibble) (h : OpcodeRow.admits ⟨m, 0xF000#16, encodeNNN t 0⟩ op = true) :
    encodeXNN t (fieldX op) (fieldNn op) = op := encodeXNN_fields (fieldTop_of_admits_F000 h) rfl

theorem encodeXYN_field_of_admits (t : Nibble) (h : OpcodeRow.admits ⟨m, 0xF000#16, encodeNNN t 0⟩ op = true) :
    encodeXYN t (fieldX op) (fieldY op) (fieldN op) = op := encodeXYN_fields (fieldTop_of_admits_F000 h) rfl

theorem encodeXYN_of_admits (t n : Nibble) (h : OpcodeRow.admits ⟨m, 0xF00F#16, encodeXYN t 0 0 n⟩ op = true) :
    encodeXYN t (fieldX op) (fieldY op) n = op := by
  have he := (and_F00F_eq_encodeXYN op).symm.trans (eq_of_beq h)
  exact encodeXYN_fields (by simpa using congrArg fieldTop he) (by simpa using congrArg fieldN he)

theorem encodeXNN_of_admits (t : Nibble) (nn : Byte)
    (h : OpcodeRow.admits ⟨m, 0xF0FF#16, encodeXNN t 0 nn⟩ op = true) : encodeXNN t (fieldX op) nn = op := by
  have he := (and_F0FF_eq_encodeXNN op).symm.trans (eq_of_beq h)
  exact encodeXNN_fields (by simpa using congrArg fieldTop he) (by simpa using congrArg fieldNn he)

/-- An opcode that a row of the map admits is the encoding of an instruction of that row, whose operands are the
fields of the opcode. -/
theorem exists_encode_of_admits (op : Word) :
    ∀ r ∈ opcodeMap, r.admits op = true → ∃ i : Instr, encode i = op ∧ i.row = r := by
  simp only [opcodeMap, opcodeRows1, opcodeRows2, opcodeRows3, List.forall_mem_append, List.forall_mem_cons]
  exact ⟨⟨⟨
    fun h => ⟨.cls, eq_of_admits_FFFF h, rfl⟩,
    fun h => ⟨.ret, eq_of_admits_FFFF h, rfl⟩,
    fun h => ⟨.jp _, encodeNNN_of_admits 0x1 h, rfl⟩,
    fun h => ⟨.call _, encodeNNN_of_admits 0x2 h, rfl⟩,
    fun h => ⟨.seImm _ _, encodeXNN_field_of_admits 0x3 h, rfl⟩,
    fun h => ⟨.sneImm _ _, encodeXNN_field_of_admits 0x4 h, rfl⟩,
    fun h => ⟨.seReg _ _, encodeXYN_of_admits 0x5 0x0 h, rfl⟩,
    fun h => ⟨.ldImm _ _, encodeXNN_field_of_admits 0x6 h, rfl⟩,
    fun h => ⟨.addImm _ _, encodeXNN_field_of_admits 0x7 h, rfl⟩,
    fun h => ⟨.ldReg _ _, encodeXYN_of_admits 0x8 0x0 h, rfl⟩,
    fun h => ⟨.or _ _, encodeXYN_of_admits 0x8 0x1 h, rfl⟩,
    fun h => ⟨.and _ _, encodeXYN_of_admits 0x8 0x2 h, rfl⟩,
    List.forall_mem_nil _⟩,
    fun h => ⟨.xor _ _, encodeXYN_of_admits 0x8 0x3 h, rfl⟩,
    fun h => ⟨.addReg _ _, encodeXYN_of_admits 0x8 0x4 h, rfl⟩,
    fun h => ⟨.sub _ _, encodeXYN_of_admits 0x8 0x5 h, rfl⟩,
    fun h => ⟨.shr _ _, encodeXYN_of_admits 0x8 0x6 h, rfl⟩,
    fun h => ⟨.subn _ _, encodeXYN_of_admits 0x8 0x7 h, rfl⟩,
    fun h => ⟨.shl _ _, encodeXYN_of_admits 0x8 0xE h, rfl⟩,
    fun h => ⟨.sneReg _ _, encodeXYN_of_admits 0x9 0x0 h, rfl⟩,
    fun h => ⟨.ldI _, encodeNNN_of_admits 0xA h, rfl⟩,
    fun h => ⟨.jpV0 _, encodeNNN_of_admits 0xB h, rfl⟩,
    fun h => ⟨.rnd _ _, encodeXNN_field_of_admits 0xC h, rfl⟩,
    fun h => ⟨.drw _ _ _, encodeXYN_field_of_admits 0xD h, rfl⟩,
    fun h => ⟨.skp _, encodeXNN_of_admits 0xE 0x9E h, rfl⟩,
    List.forall_mem_nil _⟩,
    fun h => ⟨.sknp _, encodeXNN_of_admits 0xE 0xA1 h, rfl⟩,
    fun h => ⟨.ldVxDt _, encodeXNN_of_admits 0xF 0x07 h, rfl⟩,
    fun h => ⟨.ldDtVx _, encodeXNN_of_admits 0xF 0x15 h, rfl⟩,
    fun h => ⟨.ldStVx _, encodeXNN_of_admits 0xF 0x18 h, rfl⟩,
    fun h => ⟨.addI _, encodeXNN_of_admits 0xF 0x1E h, rfl⟩,
    fun h => ⟨.ldVxK _, encodeXNN_of_admits 0xF 0x0A h, rfl⟩,
    fun h => ⟨.ldF _, encodeXNN_of_admits 0xF 0x29 h, rfl⟩,
    fun h => ⟨.ldB _, encodeXNN_of_admits 0xF 0x33 h, rfl⟩,
    fun h => ⟨.stRegs _, encodeXNN_of_admits 0xF 0x55 h, rfl⟩,
    fun h => ⟨.ldRegs _, encodeXNN_of_admits 0xF 0x65 h, rfl⟩,
    List.forall_mem_nil _⟩

/-- An opcode that a row of the map admits decodes to an instruction of that row. -/
theorem exists_decode_of_admits {r : OpcodeRow} (hr : r ∈ opcodeMap) (h : r.admits op = true) :
    ∃ i, decode op = .ok i ∧ i.row = r := by
  obtain ⟨i, rfl, hrow⟩ := exists_encode_of_admits op r hr h
  exact ⟨i, decode_encode i, hrow⟩

/-- The per-instruction laws together: every encoding is admitted by the instruction's own row of the map. -/
theorem encodesInRow : ∀ i : Instr, Laws.EncodesInRow.Statement i
  | .cls => Laws.EncodesInRow.cls
  | .ret => Laws.EncodesInRow.ret
  | .jp nnn => Laws.EncodesInRow.jp nnn
  | .call nnn => Laws.EncodesInRow.call nnn
  | .seImm x nn => Laws.EncodesInRow.seImm x nn
  | .sneImm x nn => Laws.EncodesInRow.sneImm x nn
  | .seReg x y => Laws.EncodesInRow.seReg x y
  | .ldImm x nn => Laws.EncodesInRow.ldImm x nn
  | .addImm x nn => Laws.EncodesInRow.addImm x nn
  | .ldReg x y => Laws.EncodesInRow.ldReg x y
  | .or x y => Laws.EncodesInRow.or x y
  | .and x y => Laws.EncodesInRow.and x y
  | .xor x y => Laws.EncodesInRow.xor x y
  | .addReg x y => Laws.EncodesInRow.addReg x y
  | .sub x y => Laws.EncodesInRow.sub x y
  | .shr x y => Laws.EncodesInRow.shr x y
  | .subn x y => Laws.EncodesInRow.subn x y
  | .shl x y => Laws.EncodesInRow.shl x y
  | .sneReg x y => Laws.EncodesInRow.sneReg x y
  | .ldI nnn => Laws.EncodesInRow.ldI nnn
  | .jpV0 nnn => Laws.EncodesInRow.jpV0 nnn
  | .rnd x nn => Laws.EncodesInRow.rnd x nn
  | .drw x y n => Laws.EncodesInRow.drw x y n
  | .skp x => Laws.EncodesInRow.skp x
  | .sknp x => Laws.EncodesInRow.sknp x
  | .ldVxDt x => Laws.EncodesInRow.ldVxDt x
  | .ldDtVx x => Laws.EncodesInRow.ldDtVx x
  | .ldStVx x => Laws.EncodesInRow.ldStVx x
  | .addI x => Laws.EncodesInRow.addI x
  | .ldVxK x => Laws.EncodesInRow.ldVxK x
  | .ldF x => Laws.EncodesInRow.ldF x
  | .ldB x => Laws.EncodesInRow.ldB x
  | .stRegs x => Laws.EncodesInRow.stRegs x
  | .ldRegs x => Laws.EncodesInRow.ldRegs x

/-- A decoded instruction's row is in the map and admits the opcode. -/
theorem row_admits_of_decode (h : decode op = .ok i) : i.row ∈ opcodeMap ∧ i.row.admits op = true := by
  obtain rfl := encode_of_decode h
  exact (encodesInRow i).symm

/-! ## What the decoder refuses -/

/-- An arm of a decoder that answers an instruction is not one of those that refuse (`p`). -/
theorem ok_eq_error_iff {p : Prop} (hp : ¬ p) :
    (.ok i : Except DecodeError Instr) = .error e ↔ e = .unknownOpcode op ∧ p :=
  ⟨nofun, fun ⟨_, h⟩ => absurd h hp⟩

/-- An arm of a decoder that refuses names the opcode. -/
theorem unknown_eq_error_iff {p : Prop} (hp : p) :
    (.error (.unknownOpcode op) : Except DecodeError Instr) = .error e ↔ e = .unknownOpcode op ∧ p :=
  ⟨fun h => ⟨(Except.error.inj h).symm, hp⟩, fun ⟨h, _⟩ => congrArg Except.error h.symm⟩

theorem decode0_eq_error_iff :
    decode0 op = .error e ↔ e = .unknownOpcode op ∧ op.toNat ≠ 0x00E0 ∧ op.toNat ≠ 0x00EE := by
  unfold decode0
  split
  case isTrue hcls => exact ok_eq_error_iff (by simp [hcls])
  case isFalse hcls =>
    split
    case isTrue hret => exact ok_eq_error_iff (by simp [hret])
    case isFalse hret =>
      exact unknown_eq_error_iff ⟨fun h => hcls (BitVec.eq_of_toNat_eq h), fun h => hret (BitVec.eq_of_toNat_eq h)⟩

/-- The check of 5xy0 and 9xy0 on the low nibble. -/
theorem fieldN_eq_zero_iff : fieldN op = 0#4 ↔ op.toNat % 16 = 0 := by
  rw [← BitVec.toNat_inj, toNat_fieldN]; rfl

/-- Both 5xy0 and 9xy0 refuse exactly a low nibble other than 0. -/
theorem lowNibbleCheck_eq_error_iff :
    (if fieldN op = 0#4 then .ok i else .error (.unknownOpcode op) : Except DecodeError Instr) = .error e ↔
      e = .unknownOpcode op ∧ op.toNat % 16 ≠ 0 := by
  simp only [fieldN_eq_zero_iff]
  split
  case isTrue hn => exact ok_eq_error_iff (not_not_intro hn)
  case isFalse hn => exact unknown_eq_error_iff hn

theorem decode5_eq_error_iff : decode5 op = .error e ↔ e = .unknownOpcode op ∧ op.toNat % 16 ≠ 0 :=
  lowNibbleCheck_eq_error_iff

theorem decode9_eq_error_iff : decode9 op = .error e ↔ e = .unknownOpcode op ∧ op.toNat % 16 ≠ 0 :=
  lowNibbleCheck_eq_error_iff

theorem decode8_eq_error_iff : decode8 op = .error e ↔ e = .unknownOpcode op ∧
    (8 ≤ op.toNat % 16 ∧ op.toNat % 16 ≤ 0xD ∨ op.toNat % 16 = 0xF) := by
  unfold decode8
  rw [toNat_fieldN]
  split
  case h_10 =>
    simp only [imp_false] at *
    exact unknown_eq_error_iff (by omega)
  all_goals exact ok_eq_error_iff (by omega)

theorem decodeE_eq_error_iff :
    decodeE op = .error e ↔ e = .unknownOpcode op ∧ op.toNat % 256 ≠ 0x9E ∧ op.toNat % 256 ≠ 0xA1 := by
  unfold decodeE
  rw [toNat_fieldNn]
  split
  case h_3 =>
    simp only [imp_false] at *
    exact unknown_eq_error_iff (by omega)
  all_goals exact ok_eq_error_iff (by omega)

theorem decodeF_eq_error_iff : decodeF op = .error e ↔ e = .unknownOpcode op ∧
    op.toNat % 256 ∉ [0x07, 0x0A, 0x15, 0x18, 0x1E, 0x29, 0x33, 0x55, 0x65] := by
  unfold decodeF
  rw [toNat_fieldNn]
  simp only [List.mem_cons, List.not_mem_nil, or_false]
  split
  case h_10 =>
    simp only [imp_false] at *
    exact unknown_eq_error_iff (by omega)
  all_goals exact ok_eq_error_iff (by omega)

/-- The table of unknown encodings, by top nibble (30 R49). -/
def IsUnknownEncoding (op : Word) : Prop :=
  (op.toNat / 4096 = 0x0 ∧ op.toNat ≠ 0x00E0 ∧ op.toNat ≠ 0x00EE) ∨
  (op.toNat / 4096 = 0x5 ∧ op.toNat % 16 ≠ 0) ∨
  (op.toNat / 4096 = 0x8 ∧ (8 ≤ op.toNat % 16 ∧ op.toNat % 16 ≤ 0xD ∨ op.toNat % 16 = 0xF)) ∨
  (op.toNat / 4096 = 0x9 ∧ op.toNat % 16 ≠ 0) ∨
  (op.toNat / 4096 = 0xE ∧ op.toNat % 256 ≠ 0x9E ∧ op.toNat % 256 ≠ 0xA1) ∨
  (op.toNat / 4096 = 0xF ∧ op.toNat % 256 ∉ [0x07, 0x0A, 0x15, 0x18, 0x1E, 0x29, 0x33, 0x55, 0x65])

/-- The decoder refuses an opcode exactly when the table of unknown encodings lists it, and names it. Under six top
nibbles a further check decides; under the other ten every opcode decodes. -/
theorem decode_eq_error_iff : decode op = .error e ↔ e = .unknownOpcode op ∧ IsUnknownEncoding op := by
  unfold decode IsUnknownEncoding
  rw [toNat_fieldTop]
  split
  case h_1 ht => simp [decode0_eq_error_iff, ht]
  case h_6 ht => simp [decode5_eq_error_iff, ht]
  case h_9 ht => simp [decode8_eq_error_iff, ht]
  case h_10 ht => simp [decode9_eq_error_iff, ht]
  case h_15 ht => simp [decodeE_eq_error_iff, ht]
  case h_16 ht => simp [decodeF_eq_error_iff, ht]
  case h_17 =>
    simp only [imp_false] at *
    omega
  all_goals exact ok_eq_error_iff (by omega)

/-! ## The obligations -/

/-- Settles O1: `decode_encode`. -/
theorem decodeOfEncodeIsIdentity : Obligations.DecodeOfEncodeIsIdentity := decode_encode

/-- Settles O2: `encode_of_decode`. -/
theorem encodeOfDecodeIsIdentity : Obligations.EncodeOfDecodeIsIdentity := fun _ _ => encode_of_decode

/-- Settles O3: an opcode that decodes is admitted by the row of its instruction, and one that a row admits decodes
to an instruction of that row; so the opcode determines the row. -/
theorem decodeFollowsOpcodeMap : Obligations.DecodeFollowsOpcodeMap := by
  refine ⟨fun _ _ => row_admits_of_decode, fun op hnone => ?_, fun _ _ => exists_decode_of_admits,
    fun op r hr q hq hrop hqop => ?_⟩
  · cases h : decode op with
    | ok i =>
      obtain ⟨hrow, hadmits⟩ := row_admits_of_decode h
      exact absurd hadmits (by simp [hnone i.row hrow])
    | error e => rw [(decode_eq_error_iff.mp h).1]
  · obtain ⟨i, hi, rfl⟩ := exists_decode_of_admits hr hrop
    obtain ⟨j, hj, rfl⟩ := exists_decode_of_admits hq hqop
    exact congrArg Instr.row (Except.ok.inj (hi.symm.trans hj))

/-- Settles O4: `decode_eq_error_iff`, for some error. -/
theorem unknownEncodingsAreTheListedOnes : Obligations.UnknownEncodingsAreTheListedOnes := fun _ =>
  ⟨fun ⟨_, h⟩ => (decode_eq_error_iff.mp h).2, fun h => ⟨_, decode_eq_error_iff.mpr ⟨rfl, h⟩⟩⟩

/-- Settles O5: seven closed words, evaluated by the decoder. -/
theorem sampleWordsDecode : Obligations.SampleWordsDecode := by
  unfold Obligations.SampleWordsDecode
  decide

end Sys2Proof
end

/-! # Proofs: the step cycle of 40_step_cycle.md

What `step` answers, by what the fetch and the decoder answer; what the fetch reads; what the tick does. The random
input reaches no instruction but Cxnn: replacing the draw index commutes with every phase of any other step. -/

section
namespace Sys2Proof.Machine

variable {s : State} {i : Instr} {f : Fault} {op : Word} {e : DecodeError}

/-! ## The phases of a step -/

/-- A fault of the fetch is the step's. -/
theorem step_of_fetch_error (h : s.fetch = .error f) : step s = .fault f := by
  simp [step, h, raise]

/-- An opcode that decodes to nothing is the step's fault. -/
theorem step_of_decode_error (hf : s.fetch = .ok op) (hd : decode op = .error e) :
    step s = .fault (decodeFault e) := by
  simp [step, hf, hd, raise]

/-- Any other step runs the one instruction at `pc` and ends as `finishStep` says. -/
theorem step_of_executes (h : s.executes i) : step s = finishStep (exec i s.beginStep) := by
  obtain ⟨op, hf, hd⟩ := h
  simp [step, hf, hd]

/-- Where one of the two bytes does not exist, the fetch records the lowest address that does not. -/
theorem fetch_of_overrun (h : 4096 < s.pc.toNat + 2) :
    s.fetch = .error (.addressOutOfRange (max s.pc.toNat 4096)) := by
  simp [State.fetch, rangeFault_of_overrun (by decide) h]

/-- The byte at the lower address is the high one (20 R32). -/
theorem toNat_opcodeOf (hi lo : Byte) : (opcodeOf hi lo).toNat = 256 * hi.toNat + lo.toNat :=
  (toNat_append_eq hi lo).trans (by omega)

/-- The tick touches the two timers only. -/
theorem frame_tick (s : State) : Frame (fun p => p = .delayTimer ∨ p = .soundTimer) s s.tick := by
  intro p hp
  cases p with
  | delayTimer => exact absurd (.inl rfl) hp
  | soundTimer => exact absurd (.inr rfl) hp
  | _ => rfl

/-! ## Replacing the draw index -/

/-- The state with another index of the next random byte. -/
def State.withDraws (s : State) (n : Nat) : State := { s with draws := n }

/-- The outcome with another index of the next random byte in its next state, if it has one. -/
def Result.withDraws (n : Nat) : Result → Result
  | .next t => .next (t.withDraws n)
  | .fault f => .fault f
  | .refused q => .refused q

variable (n : Nat)

/-- Replacing the draw index is what `sameUpToDraws` does not see. -/
theorem sameUpToDraws_withDraws (r : Result) : sameUpToDraws r (r.withDraws n) := by
  cases r <;> rfl

/-- The end of a step touches the timers only, and passes a fault on. -/
theorem withDraws_finishStep (r : Result) : Result.withDraws n (finishStep r) = finishStep (r.withDraws n) := by
  cases r <;> rfl

/-- The range check does not depend on the outcome it lets through, and its fault has no draw index. -/
theorem withDraws_withRange (base len : Nat) (r : Result) :
    Result.withDraws n (withRange base len r) = withRange base len (r.withDraws n) := by
  obtain ⟨hr, e⟩ | ⟨⟨h0, hr⟩, e⟩ := withRange_cases base len r
  · rw [e, withRange_of_fits hr]
  · rw [e, withRange_of_overrun h0 hr]; rfl

/-- The check of a key number commutes with the replacement when what follows it does. -/
theorem withDraws_withKey (v : Byte) {body body' : Reg → Result} (h : ∀ k, Result.withDraws n (body k) = body' k) :
    Result.withDraws n (withKey v body) = withKey v body' :=
  (apply_dite (Result.withDraws n) ..).trans (dite_congr rfl (fun _ => h _) fun _ => rfl)

/-- A push commutes with the replacement when what follows it does. -/
theorem withDraws_withPush {body : State → Result} (h : ∀ t, Result.withDraws n (body t) = body (t.withDraws n)) :
    Result.withDraws n (withPush s body) = withPush (s.withDraws n) body :=
  (apply_dite (Result.withDraws n) ..).trans (dite_congr rfl (fun _ => h _) fun _ => rfl)

/-- A pop commutes with the replacement when what follows it does. -/
theorem withDraws_withPop {body : Word → State → Result}
    (h : ∀ a t, Result.withDraws n (body a t) = body a (t.withDraws n)) :
    Result.withDraws n (withPop s body) = withPop (s.withDraws n) body := by
  obtain ⟨_, _, _, _, _, ⟨_ | d, _⟩, _⟩ := s
  · rfl
  · exact h _ _

/-- A skip changes `pc` at most. -/
theorem next_skipIf_withDraws (c : Bool) :
    Result.withDraws n (.next (s.skipIf c)) = .next ((s.withDraws n).skipIf c) := by
  cases c <;> rfl

/-- Phase P5 of every instruction but Cxnn neither reads nor writes the draw index. -/
theorem withDraws_exec (h : ∀ x nn, i ≠ .rnd x nn) :
    Result.withDraws n (exec i s) = exec i (s.withDraws n) := by
  cases i with
  | rnd x nn => exact absurd rfl (h x nn)
  | seImm | sneImm | seReg | sneReg => exact next_skipIf_withDraws n _
  | drw | ldB | stRegs | ldRegs => exact withDraws_withRange n _ _ _
  | skp x =>
    exact withDraws_withKey n (s.reg x) (body := fun k => .next (s.skipIf (s.keyDown k)))
      fun _ => next_skipIf_withDraws n _
  | sknp x =>
    exact withDraws_withKey n (s.reg x) (body := fun k => .next (s.skipIf (!s.keyDown k)))
      fun _ => next_skipIf_withDraws n _
  | call nnn => exact withDraws_withPush n (body := fun t => .next (t.jumpTo (addressOf nnn))) fun _ => rfl
  | ret => exact withDraws_withPop n (body := fun a t => .next (t.jumpTo a)) fun _ _ => rfl
  | addI => exact congrArg Host.Outcome.next (apply_ite (State.withDraws · n) ..)
  | ldVxK =>
    have hkeys : (s.withDraws n).lowestKey = s.lowestKey := rfl
    simp only [exec, execLdVxK, hkeys]
    split <;> rfl
  | _ => rfl

/-- A step that does not execute Cxnn neither reads nor writes the draw index. -/
theorem withDraws_step (h : ∀ x nn, ¬ s.executes (.rnd x nn)) :
    Result.withDraws n (step s) = step (s.withDraws n) := by
  have hfetch : (s.withDraws n).fetch = s.fetch := rfl
  cases hf : s.fetch with
  | error f => rw [step_of_fetch_error hf, step_of_fetch_error (hfetch.trans hf)]; rfl
  | ok op =>
    cases hd : decode op with
    | error e => rw [step_of_decode_error hf hd, step_of_decode_error (hfetch.trans hf) hd]; rfl
    | ok i =>
      have hi : s.executes i := ⟨op, hf, hd⟩
      have hne : ∀ x nn, i ≠ .rnd x nn := fun x nn e => h x nn (e ▸ hi)
      rw [step_of_executes hi, step_of_executes ⟨op, hfetch.trans hf, hd⟩, withDraws_finishStep, withDraws_exec n hne]
      rfl

/-! ## The obligations -/

/-- Settles O23: a step that is not of Cxnn commutes with replacing the draw index. -/
theorem randomInputMattersOnlyToRnd : Obligations.RandomInputMattersOnlyToRnd := by
  intro s n h
  have hstep : step { s with draws := n } = Result.withDraws n (step s) := (withDraws_step n h).symm
  rw [hstep]
  exact sameUpToDraws_withDraws n (step s)

/-- Settles O6: the state the statement writes out is `s.beginStep`, and `finishStep` ticks a next state and passes
a fault on. -/
theorem stepRunsDecodedInstruction : Obligations.StepRunsDecodedInstruction := by
  refine fun s i hi => ⟨fun u hu => ?_, fun f hf => ?_⟩
  · exact (step_of_executes hi).trans (congrArg finishStep hu)
  · exact (step_of_executes hi).trans (congrArg finishStep hf)

/-- Settles O8: the lowest address beyond memory is `pc` or, for `pc` = 0xFFF, `pc + 1`. -/
theorem fetchFaultsBeyondMemory : Obligations.FetchFaultsBeyondMemory := by
  intro s hpc
  have hlowest : max s.pc.toNat 4096 = if 4096 ≤ s.pc.toNat then s.pc.toNat else s.pc.toNat + 1 := by
    split <;> omega
  rw [← hlowest]
  exact step_of_fetch_error (fetch_of_overrun (by omega))

/-- Settles O9: the fetch succeeds with the opcode of the two bytes, whatever the parity of `pc`. -/
theorem fetchReadsBigEndianWord : Obligations.FetchReadsBigEndianWord := fun s hpc =>
  ⟨_, (fetch_eq_ok_iff s _).mpr ⟨by omega, rfl⟩, toNat_opcodeOf _ _⟩

/-- Settles O12: each count is `toNat_countDown`, the rest is `frame_tick`. -/
theorem tickCountsBothTimersDown : Obligations.TickCountsBothTimersDown := fun s =>
  ⟨toNat_countDown s.delayTimer, toNat_countDown s.soundTimer, frame_tick s⟩

end Sys2Proof.Machine
end

/-! # Proofs: the control flow of 41_control_flow.md

Each of the seven instructions answers a jump, a push, a pop or a skip. What such an update does to `pc` and to the
stack, and that it leaves the rest as it was, is said once for the update; the obligations put these together. -/

section
namespace Sys2Proof.Machine

variable {s : State}

/-- Every encoding has its own row's literal bits. -/
theorem encode_and_mask (i : Instr) : encode i &&& i.row.mask = i.row.value := eq_of_beq (encodesInRow i).1

/-! ## Jumps -/

theorem toNat_addressOf (nnn : Imm12) : (addressOf nnn).toNat = nnn.toNat := by
  unfold addressOf; bv_omega

/-- The target of Bnnn is at most 0x10FE, so the sum is not reduced (41 R67). -/
theorem toNat_addressOf_add_widen (nnn : Imm12) (v : Byte) :
    (addressOf nnn + widen v).toNat = nnn.toNat + v.toNat := by
  unfold addressOf widen; bv_omega

/-- A jump touches `pc` only. -/
theorem frame_jumpTo {c : Part → Prop} (s : State) (a : Word) (hpc : c .pc) : Frame c s (s.jumpTo a) := by
  intro p hp
  cases p with
  | pc => exact absurd hpc hp
  | _ => rfl

/-- A jump to 0xFFF or beyond is accepted; the fetch that follows it is not. -/
theorem fetch_jumpTo_of_overrun {a : Word} (h : 0xFFF ≤ a.toNat) :
    (s.jumpTo a).fetch = .error (.addressOutOfRange (max a.toNat 0x1000)) :=
  fetch_of_overrun (Nat.add_lt_add_right (Nat.lt_succ_of_le h) 1)

/-! ## The stack -/

/-- A write of the stack touches the depth and the entries it does not keep. -/
theorem frame_setStack {c : Part → Prop} (s : State) {st : Vector Word 16} (d : Fin 17) (hdepth : c .depth)
    (hst : ∀ j : Reg, ¬ c (.entry j) → st[j] = s.stack[j]) : Frame c s (s.setStack st d) := by
  intro p hp
  cases p with
  | depth => exact absurd hdepth hp
  | entry j => exact hst j hp
  | _ => rfl

/-- 2nnn with `k` entries in use: `pc` is pushed into entry `k`. -/
theorem exec_call_of_depth (nnn : Imm12) {k : Reg} (h : s.depth.val = k.val) :
    exec (.call nnn) s = .next ((s.setStack (s.stack.set k s.pc) k.succ).jumpTo (addressOf nnn)) := by
  obtain ⟨hd, e⟩ | ⟨hfull, _⟩ := withPush_cases s fun s1 => .next (s1.jumpTo (addressOf nnn))
  · obtain rfl : k = ⟨s.depth.val, hd⟩ := Fin.ext h.symm
    exact e
  · omega

/-- 2nnn with sixteen entries in use. -/
theorem exec_call_of_full (nnn : Imm12) (h : s.depth.val = 16) : exec (.call nnn) s = .fault .stackOverflow := by
  obtain ⟨hd, _⟩ | ⟨_, e⟩ := withPush_cases s fun s1 => .next (s1.jumpTo (addressOf nnn))
  · omega
  · exact e

/-- 00EE with entry `k` at the top: that entry becomes `pc` and no entry is written. -/
theorem exec_ret_of_depth {k : Reg} (h : s.depth.val = k.val + 1) :
    exec .ret s = .next ((s.setStack s.stack k.castSucc).jumpTo s.stack[k]) := by
  obtain ⟨d, hd, hdepth, e⟩ | ⟨hempty, _⟩ := withPop_cases s fun target s1 => .next (s1.jumpTo target)
  · obtain rfl : k = ⟨d, hd⟩ := Fin.ext (Nat.succ.inj (h.symm.trans hdepth))
    exact e
  · omega

/-- 00EE with no entry in use. -/
theorem exec_ret_of_empty (h : s.depth.val = 0) : exec .ret s = .fault .stackUnderflow := by
  obtain ⟨d, _, hdepth, _⟩ | ⟨_, e⟩ := withPop_cases s fun target s1 => .next (s1.jumpTo target)
  · omega
  · exact e

/-! ## Skips -/

/-- A skip under the condition `p` adds 2 to `pc` exactly when `p` holds, and touches nothing else. -/
theorem exists_skip {r : Result} {c : Bool} {p : Prop} [Decidable p] (hr : r = .next (s.skipIf c))
    (hc : c = true ↔ p) : ∃ t, r = .next t ∧
      t.pc.toNat = (if p then (s.pc.toNat + 2) % 65536 else s.pc.toNat) ∧ Frame (fun q => q = .pc) s t := by
  refine ⟨_, hr, ?_⟩
  cases c with
  | true => exact ⟨by rw [if_pos (hc.mp rfl)]; exact BitVec.toNat_add .., frame_jumpTo s _ rfl⟩
  | false => exact ⟨by rw [if_neg (mt hc.mpr Bool.false_ne_true)]; rfl, Frame.refl _ s⟩

/-- The test of 3xnn and 5xy0, on the values as numbers. -/
theorem beq_iff_toNat_eq (a b : Byte) : (a == b) = true ↔ a.toNat = b.toNat :=
  beq_iff_eq.trans BitVec.toNat_inj.symm

/-- The test of 4xnn and 9xy0, on the values as numbers. -/
theorem bne_iff_toNat_ne (a b : Byte) : (a != b) = true ↔ a.toNat ≠ b.toNat :=
  bne_iff_ne.trans (not_congr BitVec.toNat_inj.symm)

/-! ## The obligations -/

/-- Settles O27: 1nnn is a jump to the immediate, and 0xFFF is a target from which no fetch succeeds. -/
theorem jpJumps : Obligations.JpJumps := by
  intro nnn s
  refine ⟨encode_and_mask (.jp nnn), _, rfl, toNat_addressOf nnn, frame_jumpTo s _ rfl, ?_⟩
  rintro rfl
  exact fetch_jumpTo_of_overrun (by decide)

/-- Settles O28: with `k` entries in use 2nnn is a push into entry `k` and a jump. -/
theorem callPushesAndJumps : Obligations.CallPushesAndJumps := by
  refine fun nnn s => ⟨encode_and_mask (.call nnn), fun k hk => ?_, exec_call_of_full nnn⟩
  refine ⟨_, exec_call_of_depth nnn hk, Vector.getElem_set_self .., congrArg (· + 1) hk.symm,
    toNat_addressOf nnn, ?_⟩
  have hkept (j : Reg) (hj : j ≠ k) : (s.stack.set k s.pc)[j] = s.stack[j] :=
    Vector.getElem_set_ne k.isLt j.isLt (Fin.val_ne_of_ne hj.symm)
  refine (frame_setStack s _ (.inr (.inl rfl)) fun j hj => hkept j ?_).trans (frame_jumpTo _ _ (.inr (.inr rfl)))
  exact fun e => hj (.inl (congrArg Part.entry e))

/-- Settles O29: with entry `k` at the top 00EE is a pop that keeps every entry, and a jump to that entry. -/
theorem retPops : Obligations.RetPops := by
  refine ⟨rfl, fun s => ⟨fun k hk => ⟨_, exec_ret_of_depth hk, rfl, rfl, ?_⟩, exec_ret_of_empty⟩⟩
  exact (frame_setStack s _ (.inl rfl) fun _ _ => rfl).trans (frame_jumpTo _ _ (.inr rfl))

/-- Settles O30: 2nnn leaves its `pc` in the entry after the old top, and that is the entry 00EE pops. -/
theorem retAfterCallReturns : Obligations.RetAfterCallReturns := by
  intro nnn s hroom
  obtain ⟨k, hk⟩ : ∃ k : Reg, s.depth.val = k.val := ⟨⟨s.depth.val, hroom⟩, rfl⟩
  refine ⟨_, exec_call_of_depth nnn hk, fun u hstack hdepth => ?_⟩
  refine ⟨_, exec_ret_of_depth (k := k) (congrArg Fin.val hdepth), ?_, Fin.ext hk.symm⟩
  exact (congrArg (·[k]) hstack).trans (Vector.getElem_set_self ..)

/-- Settles O31: Bnnn is a jump to the sum, which 16 bits hold. -/
theorem jpV0AddsRegisterZero : Obligations.JpV0AddsRegisterZero := by
  intro nnn s
  have hsum := toNat_addressOf_add_widen nnn (s.reg 0)
  refine ⟨encode_and_mask (.jpV0 nnn), _, rfl, hsum, frame_jumpTo s _ rfl, fun h => ?_⟩
  rw [← hsum] at h ⊢
  exact fetch_jumpTo_of_overrun h

/-- Settles O32: both are skips, under the comparison with the immediate. -/
theorem immediateSkips : Obligations.ImmediateSkips := fun x nn s =>
  ⟨encode_and_mask (.seImm x nn), encode_and_mask (.sneImm x nn),
    exists_skip rfl (beq_iff_toNat_eq (s.reg x) nn), exists_skip rfl (bne_iff_toNat_ne (s.reg x) nn)⟩

/-- Settles O33: both are skips, under the comparison of the two registers. -/
theorem registerSkips : Obligations.RegisterSkips := fun x y s =>
  ⟨encode_and_mask (.seReg x y), encode_and_mask (.sneReg x y),
    exists_skip rfl (beq_iff_toNat_eq (s.reg x) (s.reg y)), exists_skip rfl (bne_iff_toNat_ne (s.reg x) (s.reg y))⟩

end Sys2Proof.Machine
end

/-! # Proofs: the register arithmetic of 42_alu.md

Each of these instructions writes one register, or VF first and then one register. What such a write reads back as and
what it leaves unchanged is said once for the write; the flags and the arithmetic are stated on numbers. -/

section
namespace Sys2Proof.Machine

variable {s : State} {x : Reg} {v : Byte} {r : Result}

/-! ## One register written -/

/-- The written register reads the value written. -/
theorem State.reg_setReg_self (s : State) (x : Reg) (v : Byte) : (s.setReg x v).reg x = v := by
  rw [State.reg_setReg, if_pos rfl]

/-- A write of a register touches that register only. -/
theorem frame_setReg {c : Part → Prop} (s : State) (v : Byte) (hx : c (.reg x)) : Frame c s (s.setReg x v) := by
  intro p hp
  cases p with
  | reg k =>
    have hne : x ≠ k := fun e => hp (e ▸ hx)
    exact State.reg_setReg_of_ne s v hne
  | _ => rfl

/-- A counted draw touches the count only. -/
theorem frame_countDraw {c : Part → Prop} (s : State) (hd : c .draws) : Frame c s s.countDraw := by
  intro p hp
  cases p with
  | draws => exact absurd hd hp
  | _ => rfl

/-- A result that only writes `V[x]` answers a next state with that value there and the rest unchanged. -/
theorem exists_setReg (hr : r = .next (s.setReg x v)) :
    ∃ t, r = .next t ∧ t.reg x = v ∧ Frame (fun p => p = .reg x) s t :=
  ⟨_, hr, State.reg_setReg_self s x v, frame_setReg s v rfl⟩

/-- The same, with the value given bit by bit. -/
theorem exists_setReg_bits {f : Nat → Bool} (hr : r = .next (s.setReg x v)) (hv : ∀ k, v.getLsbD k = f k) :
    ∃ t, r = .next t ∧ Frame (fun p => p = .reg x) s t ∧ ∀ k, (t.reg x).getLsbD k = f k := by
  obtain ⟨t, ht, rfl, hframe⟩ := exists_setReg hr
  exact ⟨t, ht, hframe, hv⟩

/-! ## The flags and the arithmetic as numbers -/

/-- The bit shifted out to the right is the remainder by 2. -/
theorem toNat_lowBitFlag (a : Byte) : (lowBitFlag a).toNat = a.toNat % 2 := by
  rw [lowBitFlag, BitVec.getLsbD, Nat.testBit_zero, toNat_flag]
  split <;> omega

/-- The bit shifted out to the left is the quotient by 128. -/
theorem toNat_highBitFlag (a : Byte) : (highBitFlag a).toNat = a.toNat / 128 := by
  rw [highBitFlag, BitVec.getLsbD, Nat.testBit_eq_decide_div_mod_eq, toNat_flag]
  split <;> omega

/-- A right shift by one halves the number. -/
theorem toNat_ushiftRight_one (a : Byte) : (a >>> 1).toNat = a.toNat / 2 := by
  rw [BitVec.toNat_ushiftRight, Nat.shiftRight_eq_div_pow, pow_one]

/-- A left shift by one doubles the number modulo 256. -/
theorem toNat_shiftLeft_one (a : Byte) : (a <<< 1).toNat = a.toNat * 2 % 256 := by
  rw [BitVec.toNat_shiftLeft, Nat.shiftLeft_eq, pow_one]

/-! ## VF written first, then a register -/

/-- The two writes touch VF and the destination only. -/
theorem frame_setReg_VF_setReg (s : State) (f v : Byte) :
    Frame (fun p => p = .reg x ∨ p = .reg VF) s ((s.setReg VF f).setReg x v) :=
  (frame_setReg s f (.inr rfl)).trans (frame_setReg _ v (.inl rfl))

/-- VF keeps its flag unless it is the destination. -/
theorem reg_VF_setReg_VF_setReg (s : State) (f v : Byte) (hx : x ≠ VF) :
    ((s.setReg VF f).setReg x v).reg VF = f := by
  rw [State.reg_setReg_of_ne _ v hx, State.reg_setReg_self]

/-- The difference of two registers read after the write of VF: an operand that is VF reads the flag (42 R85). -/
theorem toNat_reg_sub_reg_setReg_VF (s : State) (f : Byte) (a b : Reg) :
    ((s.setReg VF f).reg a - (s.setReg VF f).reg b).toNat =
      ((if a = VF then f.toNat else (s.reg a).toNat) + 256
        - (if b = VF then f.toNat else (s.reg b).toNat)) % 256 := by
  rw [State.reg_setReg, State.reg_setReg, ← apply_ite BitVec.toNat, ← apply_ite BitVec.toNat, BitVec.toNat_sub]
  omega

/-- `V[x] <- V[a] - V[b]` with the not-borrow written to VF first. 8xy5 is `a = x`, `b = y`; 8xy7 the reverse. -/
theorem exists_sub_notBorrow {a b : Reg}
    (hr : r = .next ((s.setReg VF (noBorrowFlag (s.reg a) (s.reg b))).setReg x
      ((s.setReg VF (noBorrowFlag (s.reg a) (s.reg b))).reg a -
        (s.setReg VF (noBorrowFlag (s.reg a) (s.reg b))).reg b))) :
    ∃ t, r = .next t ∧ ∃ f : Nat,
      f = (if (s.reg b).toNat ≤ (s.reg a).toNat then 1 else 0) ∧
      (t.reg x).toNat = ((if a = VF then f else (s.reg a).toNat) + 256
        - (if b = VF then f else (s.reg b).toNat)) % 256 ∧
      (x ≠ VF → (t.reg VF).toNat = f) ∧ Frame (fun p => p = .reg x ∨ p = .reg VF) s t := by
  refine ⟨_, hr, _, toNat_flag _, ?_, fun hx => ?_, frame_setReg_VF_setReg s _ _⟩
  · rw [State.reg_setReg_self]
    exact toNat_reg_sub_reg_setReg_VF s _ a b
  · rw [reg_VF_setReg_VF_setReg s _ _ hx, noBorrowFlag]

/-! ## The obligations -/

/-- Settles O34: 6xnn is the write of the immediate. -/
theorem ldImmLoadsTheImmediate : Obligations.LdImmLoadsTheImmediate := fun x nn _ =>
  ⟨encode_and_mask (.ldImm x nn), exists_setReg rfl⟩

/-- Settles O35: 7xnn is the write of the sum narrowed to 8 bits. -/
theorem addImmWrapsWithoutFlag : Obligations.AddImmWrapsWithoutFlag := by
  intro x nn s
  obtain ⟨t, ht, hreg, hframe⟩ := exists_setReg (r := exec (.addImm x nn) s) rfl
  refine ⟨encode_and_mask (.addImm x nn), t, ht, ?_, hframe⟩
  rw [hreg, BitVec.toNat_ofNat, byteSum]

/-- Settles O36: 8xy0 is the write of the other register's value. -/
theorem ldRegCopies : Obligations.LdRegCopies := fun x y _ =>
  ⟨encode_and_mask (.ldReg x y), exists_setReg rfl⟩

/-- Settles O37: each is the write of a bitwise value. -/
theorem logicIsBitwiseWithoutFlag : Obligations.LogicIsBitwiseWithoutFlag := fun x y _ =>
  ⟨encode_and_mask (.or x y), encode_and_mask (.and x y), encode_and_mask (.xor x y),
    exists_setReg_bits rfl fun _ => BitVec.getLsbD_or, exists_setReg_bits rfl fun _ => BitVec.getLsbD_and,
    exists_setReg_bits rfl fun _ => BitVec.getLsbD_xor⟩

/-- Settles O38: the sum is of the old registers, and its write comes after the carry's. -/
theorem addRegSetsCarry : Obligations.AddRegSetsCarry := by
  intro x y s
  refine ⟨encode_and_mask (.addReg x y), _, rfl, ?_, fun hx => ?_, frame_setReg_VF_setReg s _ _⟩
  · rw [State.reg_setReg_self, BitVec.toNat_ofNat, byteSum]
  · rw [reg_VF_setReg_VF_setReg s _ _ hx, carryFlag, toNat_flag, byteSum]

/-- Settles O39: 8xy5 is the subtraction of `V[y]` from `V[x]`. -/
theorem subSetsNotBorrow : Obligations.SubSetsNotBorrow := fun x y _ =>
  ⟨encode_and_mask (.sub x y), exists_sub_notBorrow rfl⟩

/-- Settles O40: 8xy7 is the subtraction of `V[x]` from `V[y]`. -/
theorem subnSetsNotBorrow : Obligations.SubnSetsNotBorrow := fun x y _ =>
  ⟨encode_and_mask (.subn x y), exists_sub_notBorrow rfl⟩

/-- Settles O41: with `x` not VF the shift reads the old `V[x]`, and VF keeps the bit shifted out. -/
theorem shiftsSetTheBitShiftedOut : Obligations.ShiftsSetTheBitShiftedOut := by
  intro x y s hx
  refine ⟨encode_and_mask (.shr x y), encode_and_mask (.shl x y),
    ⟨_, rfl, ?_, ?_, frame_setReg_VF_setReg s _ _⟩, ⟨_, rfl, ?_, ?_, frame_setReg_VF_setReg s _ _⟩⟩
  · rw [State.reg_setReg_self, toNat_ushiftRight_one, State.reg_setReg_of_ne s _ hx.symm]
  · rw [reg_VF_setReg_VF_setReg s _ _ hx, toNat_lowBitFlag]
  · rw [State.reg_setReg_self, toNat_shiftLeft_one, State.reg_setReg_of_ne s _ hx.symm]
  · rw [reg_VF_setReg_VF_setReg s _ _ hx, toNat_highBitFlag]

/-- Settles O42: with `x` VF the shift reads the flag just written, which is 0 or 1. -/
theorem shiftsOfTheFlagRegister : Obligations.ShiftsOfTheFlagRegister := by
  intro y s
  have hframe (f v : Byte) : Frame (fun p => p = .reg VF) s ((s.setReg VF f).setReg VF v) :=
    (frame_setReg_VF_setReg s f v).mono fun _ => or_self_iff.mp
  refine ⟨⟨_, rfl, BitVec.eq_of_toNat_eq ?_, hframe _ _⟩, ⟨_, rfl, ?_, hframe _ _⟩⟩
  · rw [State.reg_setReg_self, State.reg_setReg_self, toNat_ushiftRight_one, toNat_lowBitFlag]
    exact Nat.div_eq_of_lt (Nat.mod_lt _ two_pos)
  · rw [State.reg_setReg_self, State.reg_setReg_self, toNat_shiftLeft_one, toNat_highBitFlag]
    omega

/-- Settles O43: Cxnn is a counted draw and the write of the drawn byte masked by the immediate. -/
theorem rndMasksAFreeByte : Obligations.RndMasksAFreeByte := by
  intro x nn s
  have hreg : (s.countDraw.setReg x (Config.rnd s.draws &&& nn)).reg x = Config.rnd s.draws &&& nn :=
    State.reg_setReg_self _ x _
  refine ⟨encode_and_mask (.rnd x nn), _, rfl, hreg, fun k hk => ?_, rfl,
    (frame_countDraw s (.inr rfl)).trans (frame_setReg _ _ (.inl rfl))⟩
  exact (congrArg (·.getLsbD k) hreg).trans (by rw [BitVec.getLsbD_and, hk, Bool.and_false])

end Sys2Proof.Machine
end

/-! # Proofs: the index register and the memory transfers of 43_index_memory.md

Annn, Fx1E and Fx29 are writes of `I`; Fx33, Fx55 and Fx65 are a store or a load behind the range check. What each of
these updates leaves unchanged is said once for the update; when the range check lets it through and when it faults is
said once for the instruction. -/

section
namespace Sys2Proof.Machine

variable {s : State} {x : Reg}

/-! ## What the updates leave unchanged -/

/-- A write of `I` touches `I` only. -/
theorem frame_setIndex {c : Part → Prop} (s : State) (a : Word) (hI : c .index) : Frame c s (s.setIndex a) := by
  intro p hp
  cases p with
  | index => exact absurd hI hp
  | _ => rfl

/-- A store of bytes that exist touches those bytes only. -/
theorem frame_storeBytes (h : Memory.wf s.memory = true) {a : Nat} {bs : List Byte} (hfit : a + bs.length ≤ 4096) :
    Frame (Part.inBytes a bs.length) s (s.storeBytes a bs) := by
  intro p hp
  cases p with
  | byte b =>
    have hout : ¬ (a ≤ b ∧ b < a + bs.length) := fun hb =>
      hp ⟨b - a, by omega, congrArg Part.byte (Nat.add_sub_cancel' hb.1).symm⟩
    exact (State.readByte_storeBytes h hfit b).trans (if_neg hout)
  | _ => rfl

/-- A load of the registers through `x` touches those registers only. -/
theorem frame_loadRegsThrough (s : State) (x : Reg) (a : Nat) :
    Frame (fun p => ∃ k : Reg, k ≤ x ∧ p = .reg k) s (s.loadRegsThrough x a) := by
  intro p hp
  cases p with
  | reg k =>
    have hout : ¬ k ≤ x := fun hk => hp ⟨k, hk, rfl⟩
    exact (State.reg_loadRegsThrough s x k a).trans (if_neg hout)
  | _ => simp [Part.same]

/-! ## What is read back -/

/-- A loaded register reads the byte it was loaded from. -/
theorem State.reg_loadRegsThrough_of_le (s : State) {k : Reg} (a : Nat) (hk : k ≤ x) :
    (s.loadRegsThrough x a).reg k = s.readByte (a + k.val) := by
  rw [State.reg_loadRegsThrough, if_pos hk]

/-- A stored byte, given as a number that fits a byte, reads back as that number. -/
theorem State.toNat_readByte_storeBytes_add (h : Memory.wf s.memory = true) {a k d : Nat} {bs : List Byte}
    (hfit : a + bs.length ≤ 4096) (hk : k < bs.length) (hget : bs.getD k 0 = BitVec.ofNat 8 d) (hd : d < 256) :
    ((s.storeBytes a bs).readByte (a + k)).toNat = d := by
  rw [State.readByte_storeBytes h hfit, if_pos (by omega), Nat.add_sub_cancel_left, hget, BitVec.toNat_ofNat,
    Nat.mod_eq_of_lt hd]

/-! ## The range check of each access -/

/-- Fx33 completes when all three bytes exist. -/
theorem exec_ldB_of_fits (hfit : s.I.toNat + 3 ≤ 4096) :
    exec (.ldB x) s = .next (s.storeBytes s.I.toNat (decimalDigits (s.reg x))) :=
  withRange_of_fits (.inr hfit)

/-- Fx65 completes when the highest byte it loads exists. -/
theorem exec_ldRegs_of_fits (hfit : s.I.toNat + x.val < 4096) :
    exec (.ldRegs x) s = .next (s.loadRegsThrough x s.I.toNat) :=
  withRange_of_fits (.inr (by omega))

/-- Fx33 faults when one of its bytes does not exist. -/
theorem exec_ldB_of_overrun (h : 4096 < s.I.toNat + 3) :
    exec (.ldB x) s = .fault (.addressOutOfRange (max s.I.toNat 4096)) :=
  withRange_of_overrun (by omega) h

/-- Fx55 faults when one of its bytes does not exist. -/
theorem exec_stRegs_of_overrun (h : 4096 < s.I.toNat + (x.val + 1)) :
    exec (.stRegs x) s = .fault (.addressOutOfRange (max s.I.toNat 4096)) :=
  withRange_of_overrun (Nat.succ_ne_zero _) h

/-- Fx65 faults when one of its bytes does not exist. -/
theorem exec_ldRegs_of_overrun (h : 4096 < s.I.toNat + (x.val + 1)) :
    exec (.ldRegs x) s = .fault (.addressOutOfRange (max s.I.toNat 4096)) :=
  withRange_of_overrun (Nat.succ_ne_zero _) h

/-- Dxyn faults when it has a row and one of its rows does not exist; the draw flag and VF, which it writes before the
check, do not enter it. -/
theorem exec_drw_of_overrun {y : Reg} {n : Nibble} (hn : n ≠ 0) (h : 4096 < s.I.toNat + n.toNat) :
    exec (.drw x y n) s = .fault (.addressOutOfRange (max s.I.toNat 4096)) :=
  have hrows : n.toNat ≠ 0 := fun e => hn (BitVec.eq_of_toNat_eq e)
  withRange_of_overrun hrows h

/-! ## The obligations -/

/-- Settles O47: the bytes at `I`, `I+1` and `I+2` read back the three stored digits. -/
theorem ldBStoresDecimalDigits : Obligations.LdBStoresDecimalDigits := by
  refine fun x s => ⟨encode_and_mask (.ldB x), fun hfit hwf => ?_, fun h => ⟨_, exec_ldB_of_overrun (by omega)⟩⟩
  have hrange : s.I.toNat + (decimalDigits (s.reg x)).length ≤ 4096 := Nat.succ_le_of_lt hfit
  have hdigit {k d : Nat} (hk : k < 3) := State.toNat_readByte_storeBytes_add hwf (d := d) hrange hk
  have hv := (s.reg x).isLt
  exact ⟨_, exec_ldB_of_fits hrange, hdigit (k := 0) (by decide) rfl (by omega),
    hdigit (k := 1) (by decide) rfl (by omega), hdigit (k := 2) (by decide) rfl (by omega),
    frame_storeBytes hwf hrange⟩

/-- Settles O48: a store of the registers behind the range check. -/
theorem stRegsStoresRegisters : Obligations.StRegsStoresRegisters := by
  refine fun x s => ⟨encode_and_mask (.stRegs x), fun hfit hwf => ?_, fun h => ⟨_, exec_stRegs_of_overrun (by omega)⟩⟩
  refine ⟨_, exec_stRegs_of_fits hfit, fun k hk => State.readByte_storeBytes_regsThrough hwf hfit hk, ?_⟩
  rw [← length_regsThrough s x]
  exact frame_storeBytes hwf (by rw [length_regsThrough]; omega)

/-- Settles O49: a load of the registers behind the range check. -/
theorem ldRegsLoadsRegisters : Obligations.LdRegsLoadsRegisters := by
  refine fun x s => ⟨encode_and_mask (.ldRegs x), fun hfit => ?_, fun h => ⟨_, exec_ldRegs_of_overrun (by omega)⟩⟩
  exact ⟨_, exec_ldRegs_of_fits hfit, fun k hk => State.reg_loadRegsThrough_of_le s _ hk, frame_loadRegsThrough s x _⟩

/-- Settles O50: the load reads each register from the byte the store left it in. -/
theorem storeThenLoadRestoresRegisters : Obligations.StoreThenLoadRestoresRegisters := by
  refine fun x s hfit hwf => ⟨_, exec_stRegs_of_fits hfit, fun u hmem hI => ?_⟩
  refine ⟨_, exec_ldRegs_of_fits (hI ▸ hfit), fun k hk => ?_⟩
  rw [State.reg_loadRegsThrough_of_le u _ hk, State.readByte_congr hmem, hI,
    State.readByte_storeBytes_regsThrough hwf hfit hk]

/-- Settles O44: Annn is the write of the widened immediate. -/
theorem ldILoadsTheAddress : Obligations.LdILoadsTheAddress := fun nnn s =>
  ⟨encode_and_mask (.ldI nnn), _, rfl, toNat_addressOf nnn, frame_setIndex s _ rfl⟩

/-- Settles O45: the sum modulo 4096 fits the register, and the write of VF follows only on overflow. -/
theorem addIWrapsAt4096 : Obligations.AddIWrapsAt4096 := by
  intro x s
  have hsum : (BitVec.ofNat 16 (indexSum s.I (s.reg x) % 4096)).toNat = (s.I.toNat + (s.reg x).toNat) % 4096 := by
    rw [BitVec.toNat_ofNat, indexSum]; omega
  refine ⟨encode_and_mask (.addI x), ?_⟩
  by_cases hover : 0xFFF < s.I.toNat + (s.reg x).toNat
  · refine ⟨_, congrArg Host.Outcome.next (if_pos hover), hsum, ?_,
      (frame_setIndex s _ (.inl rfl)).trans (frame_setReg _ _ (.inr rfl))⟩
    rw [State.reg_setReg_self, if_pos hover]
  · refine ⟨_, congrArg Host.Outcome.next (if_neg hover), hsum, ?_, frame_setIndex s _ (.inl rfl)⟩
    rw [State.reg_setIndex, if_neg hover]

/-- Settles O46: `0x050 + 5 * V[x]` is at most 0x54B, so the write of `I` narrows nothing. -/
theorem ldFPointsAtTheGlyph : Obligations.LdFPointsAtTheGlyph := by
  intro x s
  have hv := (s.reg x).isLt
  refine ⟨encode_and_mask (.ldF x), _, rfl, ?_, frame_setIndex s _ rfl⟩
  rw [State.setIndex_I, BitVec.toNat_ofNat, Nat.mod_eq_of_lt (by omega)]

/-- Settles O51: the range check of each of the four accesses. -/
theorem rangeFaultRecordsLowestAddress : Obligations.RangeFaultRecordsLowestAddress := fun _ _ _ _ =>
  ⟨exec_ldB_of_overrun, fun h => ⟨exec_stRegs_of_overrun h, exec_ldRegs_of_overrun h⟩, exec_drw_of_overrun⟩

end Sys2Proof.Machine
end

/-! # Proofs: the display rules of 44_display.md

00E0 and Dxyn are the only instructions that touch the draw flag or the display. What one sprite does is said once, by
`State.drawnFrom_drawSprite` for the state `State.drawSprite`; that a second one undoes it follows from
`State.DrawnFrom` alone. -/

section
namespace Sys2Proof.Machine

variable {s t u : State} {i : Instr} {x y : Reg} {n : Nibble} {x0 y0 rows : Nat} {px : Fin 64} {py : Fin 32}

/-! ## What the updates leave unchanged -/

/-- Setting the draw flag touches the draw flag only. -/
theorem frame_setDrawFlag {c : Part → Prop} (s : State) (hflag : c .drawFlag) : Frame c s s.setDrawFlag := by
  intro p hp
  cases p with
  | drawFlag => exact absurd hflag hp
  | _ => rfl

/-- A write of the display touches the pixels it does not keep. -/
theorem frame_setDisplay {c : Part → Prop} (s : State) {d : Display}
    (hd : ∀ px py, ¬ c (.pixel px py) → Display.pixel d px py = Display.pixel s.display px py) :
    Frame c s (s.setDisplay d) := by
  intro p hp
  cases p with
  | pixel px py => exact hd px py hp
  | _ => rfl

/-! ## The draw flag and the display through an instruction -/

/-- Every instruction but 00E0 and Dxyn leaves the draw flag and the display as they were. -/
theorem exec_drawFlag_display (h : exec i s = .next t) (hcls : i ≠ .cls) (hdrw : ∀ x y n, i ≠ .drw x y n) :
    t.drawFlag = s.drawFlag ∧ t.display = s.display := by
  have hn := exec_next h
  cases i with
  | cls => exact absurd rfl hcls
  | drw x y n => exact absurd rfl (hdrw x y n)
  | ret => obtain ⟨d, hd, _, rfl⟩ := hn; exact ⟨rfl, rfl⟩
  | call => obtain ⟨hd, rfl⟩ := hn; exact ⟨rfl, rfl⟩
  | seImm | sneImm | seReg | sneReg | skp | sknp =>
    obtain ⟨c, rfl⟩ := hn; exact ⟨State.skipIf_drawFlag s c, State.skipIf_display s c⟩
  | ldB | stRegs | ldRegs => obtain ⟨_, rfl⟩ := hn; exact ⟨rfl, rfl⟩
  | ldVxK => obtain ⟨k, _, rfl⟩ | ⟨_, rfl⟩ := hn <;> exact ⟨rfl, rfl⟩
  | ldF => obtain ⟨a, _, rfl⟩ := hn; exact ⟨rfl, rfl⟩
  | addI => obtain ⟨a, _, rfl | rfl⟩ := hn <;> exact ⟨rfl, rfl⟩
  | ldImm | addImm | ldReg | or | and | xor => obtain ⟨v, rfl⟩ := hn; exact ⟨rfl, rfl⟩
  | addReg | sub | shr | subn | shl => obtain ⟨f, v, rfl⟩ := hn; exact ⟨rfl, rfl⟩
  | jp | jpV0 | ldI | rnd | ldVxDt | ldDtVx | ldStVx => obtain rfl := hn; exact ⟨rfl, rfl⟩

/-- 00E0 and Dxyn leave the draw flag true. -/
theorem exec_drawFlag_of_draws (h : exec i s = .next t) (hi : i = .cls ∨ ∃ x y n, i = .drw x y n) :
    t.drawFlag = true := by
  obtain rfl | ⟨x, y, n, rfl⟩ := hi
  · obtain rfl := exec_next h; rfl
  · obtain ⟨_, d, v, rfl⟩ := exec_next h; rfl

/-! ## One sprite -/

/-- The coordinate Dxyn reads from a register: VF has been cleared by then (44 R97). -/
def State.coordinate (s : State) (x : Reg) : Nat := if x = VF then 0 else (s.reg x).toNat

/-- A register other than VF is read as it stands. -/
theorem State.coordinate_of_ne (s : State) (hx : x ≠ VF) : s.coordinate x = (s.reg x).toNat := if_neg hx

/-- A coordinate is read after the draw flag is set and VF is cleared. -/
theorem State.toNat_reg_setDrawFlag_setReg_VF (s : State) (x : Reg) :
    ((s.setDrawFlag.setReg VF 0).reg x).toNat = s.coordinate x := by
  rw [State.reg_setReg, State.reg_setDrawFlag, State.coordinate, apply_ite BitVec.toNat]
  rfl

/-- The pixels named by the sprite of `rows` bytes at `I`, drawn from column `x0` and row `y0` (44 R95). -/
def State.spriteAt (s : State) (x0 y0 rows : Nat) : List (Fin 64 × Fin 32) :=
  spritePixels (Memory.readBytes s.memory s.I.toNat rows) x0 y0

/-- They are the pixels that the statements call covered. -/
theorem State.mem_spriteAt (s : State) : (px, py) ∈ s.spriteAt x0 y0 rows ↔ s.spriteCovers x0 y0 rows px py := by
  rw [State.spriteAt, mem_spritePixels, Memory.length_readBytes]
  refine exists_congr fun row => exists_congr fun col => and_congr_right fun hrow => ?_
  rw [Memory.getD_readBytes _ _ hrow, State.readByte]

/-- The display after that sprite is drawn, and whether it collided. -/
def State.blit (s : State) (x0 y0 rows : Nat) : Display × Bool := drawPixels s.display (s.spriteAt x0 y0 rows)

/-- The state after that sprite is drawn: the draw flag set, VF cleared, the pixels XORed, and VF the collision. -/
def State.drawSprite (s : State) (x0 y0 rows : Nat) : State :=
  ((s.setDrawFlag.setReg VF 0).setDisplay (s.blit x0 y0 rows).1).setReg VF (flag (s.blit x0 y0 rows).2)

/-- Dxyn draws its sprite when all its rows exist. -/
theorem exec_drw_of_fits (hfit : n.toNat = 0 ∨ s.I.toNat + n.toNat ≤ 4096) :
    exec (.drw x y n) s = .next (s.drawSprite (s.coordinate x) (s.coordinate y) n.toNat) := by
  rw [← State.toNat_reg_setDrawFlag_setReg_VF, ← State.toNat_reg_setDrawFlag_setReg_VF]
  exact withRange_of_fits hfit

section
variable (s : State) (hrows : rows ≤ 32)
include hrows

/-- The blit inverts the pixels that the sprite names. -/
theorem State.pixel_blit : Display.pixel (s.blit x0 y0 rows).1 px py =
    (Display.pixel s.display px py ^^ decide ((px, py) ∈ s.spriteAt x0 y0 rows)) :=
  (drawPixels_spec s.display _ x0 y0 (by rwa [Memory.length_readBytes])).1 px py

/-- A covered pixel is inverted. -/
theorem State.pixel_blit_of_covers (h : s.spriteCovers x0 y0 rows px py) :
    Display.pixel (s.blit x0 y0 rows).1 px py = !Display.pixel s.display px py := by
  rw [s.pixel_blit hrows, decide_eq_true (s.mem_spriteAt.mpr h), Bool.xor_true]

/-- Any other pixel keeps its value. -/
theorem State.pixel_blit_of_not_covers (h : ¬ s.spriteCovers x0 y0 rows px py) :
    Display.pixel (s.blit x0 y0 rows).1 px py = Display.pixel s.display px py := by
  rw [s.pixel_blit hrows, decide_eq_false (mt s.mem_spriteAt.mp h), Bool.xor_false]

/-- A collision is a covered pixel that was on. -/
theorem State.blit_collides_iff : (s.blit x0 y0 rows).2 = true ↔
    ∃ px py, s.spriteCovers x0 y0 rows px py ∧ Display.pixel s.display px py = true := by
  simp only [← State.mem_spriteAt]
  exact (drawPixels_spec s.display _ x0 y0 (by rwa [Memory.length_readBytes])).2

/-- The whole effect of one sprite of at most 32 rows. -/
theorem State.drawnFrom_drawSprite : s.DrawnFrom x0 y0 rows (s.drawSprite x0 y0 rows) := by
  have hVF : (s.drawSprite x0 y0 rows).reg VF = flag (s.blit x0 y0 rows).2 := State.reg_setReg_self _ VF _
  refine ⟨rfl, fun px py => s.pixel_blit_of_covers hrows, fun hon => ?_, fun hoff => ?_, ?_⟩
  · rw [hVF, (s.blit_collides_iff hrows).mpr hon, flag_true]
  · have hmiss : (s.blit x0 y0 rows).2 = false := by
      rw [Bool.eq_false_iff, ne_eq, s.blit_collides_iff hrows]
      rintro ⟨px, py, hcov, hon⟩
      exact Bool.false_ne_true ((hoff px py hcov).symm.trans hon)
    rw [hVF, hmiss, flag_false]
  · refine (((frame_setDrawFlag s (.inl rfl)).trans (frame_setReg _ _ (.inr (.inl rfl)))).trans
      (frame_setDisplay _ fun px py hp => ?_)).trans (frame_setReg _ _ (.inr (.inl rfl)))
    exact s.pixel_blit_of_not_covers hrows fun hcov => hp (.inr (.inr ⟨px, py, rfl, hcov⟩))

end

/-- Dxyn with all its rows in memory, for every pair of registers. -/
theorem exists_drawnFrom (hfit : n.toNat = 0 ∨ s.I.toNat + n.toNat ≤ 4096) :
    ∃ t, exec (.drw x y n) s = .next t ∧ s.DrawnFrom (s.coordinate x) (s.coordinate y) n.toNat t :=
  ⟨_, exec_drw_of_fits hfit, s.drawnFrom_drawSprite (by omega)⟩

/-! ## The same sprite again -/

/-- A drawn sprite leaves `I` as it was. -/
theorem State.DrawnFrom.I_eq (h : s.DrawnFrom x0 y0 rows t) : t.I = s.I := by
  obtain ⟨-, -, -, -, hframe⟩ := h
  exact hframe .index (by simp)

/-- A drawn sprite leaves memory as it was. -/
theorem State.DrawnFrom.readByte_eq (h : s.DrawnFrom x0 y0 rows t) (a : Nat) : t.readByte a = s.readByte a := by
  obtain ⟨-, -, -, -, hframe⟩ := h
  exact hframe (.byte a) (by simp)

/-- A drawn sprite leaves the coordinates as they were: VF, which it writes, counts as 0 both times. -/
theorem State.DrawnFrom.coordinate_eq (h : s.DrawnFrom x0 y0 rows t) (x : Reg) : t.coordinate x = s.coordinate x := by
  obtain ⟨-, -, -, -, hframe⟩ := h
  by_cases hx : x = VF
  · rw [State.coordinate, State.coordinate, if_pos hx, if_pos hx]
  · have hreg : t.reg x = s.reg x := hframe (.reg x) (by simp [hx])
    rw [State.coordinate_of_ne t hx, State.coordinate_of_ne s hx, hreg]

/-- A drawn sprite, drawn again, covers the same pixels. -/
theorem State.DrawnFrom.covers_iff (h : s.DrawnFrom x0 y0 rows t) :
    t.spriteCovers x0 y0 rows px py ↔ s.spriteCovers x0 y0 rows px py := by
  simp only [State.spriteCovers, h.I_eq, h.readByte_eq]

/-- A covered pixel is inverted. -/
theorem State.DrawnFrom.pixel_of_covers (h : s.DrawnFrom x0 y0 rows t) (hcov : s.spriteCovers x0 y0 rows px py) :
    Display.pixel t.display px py = !Display.pixel s.display px py := by
  obtain ⟨-, hinverted, -, -, -⟩ := h
  exact hinverted px py hcov

/-- Any other pixel keeps its value. -/
theorem State.DrawnFrom.pixel_of_not_covers (h : s.DrawnFrom x0 y0 rows t)
    (hcov : ¬ s.spriteCovers x0 y0 rows px py) : Display.pixel t.display px py = Display.pixel s.display px py := by
  obtain ⟨-, -, -, -, hframe⟩ := h
  exact hframe (.pixel px py) (by simp [hcov])

/-- A covered pixel is inverted twice and the others are kept, so the second sprite restores the display. -/
theorem State.DrawnFrom.display_restored (h : s.DrawnFrom x0 y0 rows t) (h' : t.DrawnFrom x0 y0 rows u) :
    u.display = s.display := by
  refine Display.ext_pixel fun px py => ?_
  by_cases hcov : s.spriteCovers x0 y0 rows px py
  · rw [h'.pixel_of_covers (h.covers_iff.mpr hcov), h.pixel_of_covers hcov, Bool.not_not]
  · rw [h'.pixel_of_not_covers (mt h.covers_iff.mp hcov), h.pixel_of_not_covers hcov]

/-- A covered pixel that was off collides with the second sprite. -/
theorem State.DrawnFrom.collides_again (h : s.DrawnFrom x0 y0 rows t) (h' : t.DrawnFrom x0 y0 rows u)
    (hcov : s.spriteCovers x0 y0 rows px py) (hoff : Display.pixel s.display px py = false) : u.reg VF = 1 := by
  have hon : Display.pixel t.display px py = true := by rw [h.pixel_of_covers hcov, hoff, Bool.not_false]
  obtain ⟨-, -, hcollision, -, -⟩ := h'
  exact hcollision ⟨px, py, h.covers_iff.mpr hcov, hon⟩

/-- A 1 bit of the sprite covers the pixel it lands on. -/
theorem State.spriteCovers_of_bit {row col : Nat} (hrow : row < rows) (hcol : col < 8)
    (hbit : (s.readByte (s.I.toNat + row)).getLsbD (7 - col) = true) :
    s.spriteCovers x0 y0 rows (Fin.ofNat 64 (x0 + col)) (Fin.ofNat 32 (y0 + row)) :=
  ⟨row, col, hrow, hcol, hbit, rfl, rfl⟩

/-! ## The obligations -/

/-- Settles O52: every cell of the clear display is off, and only the display and the draw flag are written. -/
theorem clsClearsTheDisplay : Obligations.ClsClearsTheDisplay :=
  ⟨rfl, fun s => ⟨_, rfl, fun _ => Display.pixel_clear _ _, rfl,
    (frame_setDisplay s fun px py hp => absurd (.inr ⟨px, py, rfl⟩) hp).trans (frame_setDrawFlag _ (.inl rfl))⟩⟩

/-- Settles O53: the coordinates are the registers themselves, and the range check is that of `exec_drw_of_overrun`. -/
theorem drwXorsTheSprite : Obligations.DrwXorsTheSprite := by
  refine fun x y n s hx hy => ⟨encode_and_mask (.drw x y n), fun hfit => ?_, fun hn hover => ?_⟩
  · rw [← s.coordinate_of_ne hx, ← s.coordinate_of_ne hy]
    exact exists_drawnFrom hfit
  · have hne : n ≠ 0 := by rintro rfl; exact absurd hn (by decide)
    exact ⟨_, exec_drw_of_overrun hne (by omega)⟩

/-- Settles O54: `State.coordinate` is what the statement writes out. -/
theorem drwReadsClearedFlagAsCoordinate : Obligations.DrwReadsClearedFlagAsCoordinate :=
  fun _ _ _ _ _ hfit => exists_drawnFrom hfit

/-- Settles O55: the second draw is from the same coordinates, so it undoes the first. -/
theorem drawingTwiceRestoresTheDisplay : Obligations.DrawingTwiceRestoresTheDisplay := by
  intro x y n s hfit
  obtain ⟨t, ht, hst⟩ := exists_drawnFrom (x := x) (y := y) hfit
  obtain ⟨u, hu, htu⟩ := exists_drawnFrom (s := t) (x := x) (y := y) (n := n) (by rwa [hst.I_eq])
  rw [hst.coordinate_eq, hst.coordinate_eq] at htu
  refine ⟨t, u, ht, hu, hst.display_restored htu, fun hclear hbit => ?_⟩
  obtain ⟨row, col, hrow, hcol, hbit⟩ := hbit
  exact hst.collides_again htu (State.spriteCovers_of_bit hrow hcol hbit) (hclear _ _)

/-- Settles O22: the draw flag is cleared before phase P5, and only 00E0 and Dxyn set it again or write the display. -/
theorem drawFlagTellsWhetherTheStepDrew : Obligations.DrawFlagTellsWhetherTheStepDrew := by
  intro s t h
  obtain ⟨op, i, u, hf, hd, hu, rfl⟩ := step_next_cases h
  have hi : s.executes i := ⟨op, hf, hd⟩
  by_cases hdrew : s.executes .cls ∨ ∃ x y n, s.executes (.drw x y n)
  · have hdraws : i = .cls ∨ ∃ x y n, i = .drw x y n :=
      hdrew.imp (State.executes_unique hi) fun ⟨x, y, n, hdrw⟩ => ⟨x, y, n, State.executes_unique hi hdrw⟩
    have hflag : u.drawFlag = true := exec_drawFlag_of_draws hu hdraws
    exact ⟨iff_of_true hflag hdrew, fun hoff => absurd (hoff.symm.trans hflag) Bool.false_ne_true⟩
  · have hcls : i ≠ .cls := fun e => hdrew (.inl (e ▸ hi))
    have hdrw : ∀ x y n, i ≠ .drw x y n := fun x y n e => hdrew (.inr ⟨x, y, n, e ▸ hi⟩)
    obtain ⟨hflag, hdisplay⟩ := exec_drawFlag_display hu hcls hdrw
    refine ⟨iff_of_false (fun hon => ?_) hdrew, fun _ px py => ?_⟩
    · exact Bool.false_ne_true (hflag.symm.trans hon)
    · rw [State.tick_display, hdisplay, State.beginStep_display]

end Sys2Proof.Machine
end

/-! # Proofs: the keys and the timers of 45_keys_timers.md

What `withKey` and Fx0A answer is said once for a key and once for none. Fx15 and Fx18 are the only instructions that
write a timer, so every other step leaves a timer to the tick alone. -/

section
namespace Sys2Proof.Machine

variable {s t u : State} {i : Instr} {x k : Reg} {v : Byte}

/-! ## Keys -/

/-- A number from 0 to 15 names its key. -/
theorem withKey_of_eq (body : Reg → Result) (h : v.toNat = k.val) : withKey v body = body k := by
  obtain ⟨j, hj, e⟩ | ⟨hbig, _⟩ := withKey_cases v body
  · obtain rfl : j = k := Fin.ext (hj.trans h)
    exact e
  · omega

/-- A number above 15 names no key. -/
theorem withKey_of_gt (body : Reg → Result) (h : 15 < v.toNat) : withKey v body = .fault (.keyIndexOutOfRange v) := by
  obtain ⟨j, hj, _⟩ | ⟨_, e⟩ := withKey_cases v body
  · omega
  · exact e

/-- Ex9E with a key in the register: a skip if it is down. -/
theorem exec_skp_of_key (h : (s.reg x).toNat = k.val) : exec (.skp x) s = .next (s.skipIf (s.keyDown k)) :=
  withKey_of_eq (fun j => .next (s.skipIf (s.keyDown j))) h

/-- ExA1 with a key in the register: a skip if it is up. -/
theorem exec_sknp_of_key (h : (s.reg x).toNat = k.val) : exec (.sknp x) s = .next (s.skipIf (!s.keyDown k)) :=
  withKey_of_eq (fun j => .next (s.skipIf (!s.keyDown j))) h

/-- Ex9E with no key in the register. -/
theorem exec_skp_of_gt (h : 15 < (s.reg x).toNat) : exec (.skp x) s = .fault (.keyIndexOutOfRange (s.reg x)) :=
  withKey_of_gt (fun j => .next (s.skipIf (s.keyDown j))) h

/-- ExA1 with no key in the register. -/
theorem exec_sknp_of_gt (h : 15 < (s.reg x).toNat) : exec (.sknp x) s = .fault (.keyIndexOutOfRange (s.reg x)) :=
  withKey_of_gt (fun j => .next (s.skipIf (!s.keyDown j))) h

/-- A key number fits a byte. -/
theorem toNat_regByte (k : Reg) : (regByte k).toNat = k.val := by
  rw [regByte, BitVec.toNat_ofNat, Nat.mod_eq_of_lt (by omega)]

/-- Fx0A with a key down: the lowest one goes to the register. -/
theorem exec_ldVxK_of_lowest (h : s.lowestKey = some k) : exec (.ldVxK x) s = .next (s.setReg x (regByte k)) := by
  simp only [exec, execLdVxK, h]

/-- Fx0A with no key down: `pc` goes back to the instruction. -/
theorem exec_ldVxK_of_none (h : s.lowestKey = none) : exec (.ldVxK x) s = .next (s.jumpTo (s.pc - 2)) := by
  simp only [exec, execLdVxK, h]

/-! ## Timers through an instruction -/

/-- A write of the delay timer touches that timer only. -/
theorem frame_setDelayTimer (s : State) (v : Byte) : Frame (fun p => p = .delayTimer) s (s.setDelayTimer v) := by
  intro p hp
  cases p with
  | delayTimer => exact absurd rfl hp
  | _ => rfl

/-- A write of the sound timer touches that timer only. -/
theorem frame_setSoundTimer (s : State) (v : Byte) : Frame (fun p => p = .soundTimer) s (s.setSoundTimer v) := by
  intro p hp
  cases p with
  | soundTimer => exact absurd rfl hp
  | _ => rfl

/-- Every instruction but Fx15 and Fx18 leaves both timers as they were. -/
theorem exec_timers (h : exec i s = .next t) (hdt : ∀ x, i ≠ .ldDtVx x) (hst : ∀ x, i ≠ .ldStVx x) :
    t.delayTimer = s.delayTimer ∧ t.soundTimer = s.soundTimer := by
  have hn := exec_next h
  cases i with
  | ldDtVx x => exact absurd rfl (hdt x)
  | ldStVx x => exact absurd rfl (hst x)
  | ret => obtain ⟨d, hd, _, rfl⟩ := hn; exact ⟨rfl, rfl⟩
  | call => obtain ⟨hd, rfl⟩ := hn; exact ⟨rfl, rfl⟩
  | seImm | sneImm | seReg | sneReg | skp | sknp =>
    obtain ⟨c, rfl⟩ := hn; exact ⟨State.skipIf_delayTimer s c, State.skipIf_soundTimer s c⟩
  | ldB | stRegs | ldRegs => obtain ⟨_, rfl⟩ := hn; exact ⟨rfl, rfl⟩
  | ldVxK => obtain ⟨k, _, rfl⟩ | ⟨_, rfl⟩ := hn <;> exact ⟨rfl, rfl⟩
  | ldF => obtain ⟨a, _, rfl⟩ := hn; exact ⟨rfl, rfl⟩
  | addI => obtain ⟨a, _, rfl | rfl⟩ := hn <;> exact ⟨rfl, rfl⟩
  | ldImm | addImm | ldReg | or | and | xor => obtain ⟨v, rfl⟩ := hn; exact ⟨rfl, rfl⟩
  | addReg | sub | shr | subn | shl => obtain ⟨f, v, rfl⟩ := hn; exact ⟨rfl, rfl⟩
  | drw => obtain ⟨_, d, v, rfl⟩ := hn; exact ⟨rfl, rfl⟩
  | cls | jp | jpV0 | ldI | rnd | ldVxDt => obtain rfl := hn; exact ⟨rfl, rfl⟩

/-- Only Fx15 writes the delay timer. -/
theorem exec_delayTimer (h : exec i s = .next t) (hdt : ∀ x, i ≠ .ldDtVx x) : t.delayTimer = s.delayTimer := by
  cases i with
  | ldStVx => obtain rfl := exec_next h; rfl
  | _ => exact (exec_timers h hdt (by simp)).1

/-- Only Fx18 writes the sound timer. -/
theorem exec_soundTimer (h : exec i s = .next t) (hst : ∀ x, i ≠ .ldStVx x) : t.soundTimer = s.soundTimer := by
  cases i with
  | ldDtVx => obtain rfl := exec_next h; rfl
  | _ => exact (exec_timers h (by simp) hst).2

/-! ## The whole step -/

/-- Where phase P5 answers a next state, the step answers that state after the tick. -/
theorem step_of_executes_next (h : s.executes i) (hu : exec i s.beginStep = .next u) : step s = .next u.tick :=
  (step_of_executes h).trans (congrArg finishStep hu)

/-- A step that takes `pc` back to its instruction has cleared the draw flag and touched nothing else by then. -/
theorem frame_beginStep_jumpTo_pc {c : Part → Prop} (s : State) (hflag : c .drawFlag) :
    Frame c s (s.beginStep.jumpTo s.pc) := by
  intro p hp
  cases p with
  | drawFlag => exact absurd hflag hp
  | _ => rfl

/-- The step of Fx0A with no key down. -/
theorem step_ldVxK_of_none (h : s.executes (.ldVxK x)) (hnone : s.lowestKey = none) :
    step s = .next (s.beginStep.jumpTo s.pc).tick := by
  have hback : s.beginStep.pc - 2 = s.pc := BitVec.add_sub_cancel s.pc 2
  rw [← hback]
  exact step_of_executes_next h (exec_ldVxK_of_none hnone)

/-! ## The obligations -/

/-- Settles O13: the step executes one instruction, and the tick follows what it wrote or kept. -/
theorem timersAfterOneStep : Obligations.TimersAfterOneStep := by
  intro s t h
  obtain ⟨op, i, u, hf, hd, hu, rfl⟩ := step_next_cases h
  have hi : s.executes i := ⟨op, hf, hd⟩
  rw [State.tick_delayTimer, State.tick_soundTimer, toNat_countDown, toNat_countDown]
  refine ⟨fun x hx => ?_, fun hne => ?_, fun x hx => ?_, fun hne => ?_⟩
  · obtain rfl := State.executes_unique hi hx
    obtain rfl := exec_next hu
    rfl
  · rw [exec_delayTimer hu fun x e => hne x (e ▸ hi), State.beginStep_delayTimer]
  · obtain rfl := State.executes_unique hi hx
    obtain rfl := exec_next hu
    rfl
  · rw [exec_soundTimer hu fun x e => hne x (e ▸ hi), State.beginStep_soundTimer]

/-- Settles O14, by induction on the chain: each of its steps is one tick. -/
theorem delayTimerAfterQuietSteps : Obligations.DelayTimerAfterQuietSteps := by
  intro k s t h
  induction h with
  | none => rfl
  | more _ hstep hquiet ih =>
    obtain ⟨-, htick, -, -⟩ := timersAfterOneStep _ _ hstep
    rw [htick hquiet, ih, Nat.sub_sub]

/-- Settles O56: both are skips when the register names a key, and faults when it does not. -/
theorem keySkips : Obligations.KeySkips := by
  refine fun x s => ⟨encode_and_mask (.skp x), encode_and_mask (.sknp x), fun k hk => ?_, fun h => ?_⟩
  · have hup : (!s.keyDown k) = true ↔ s.keyDown k = false := iff_of_eq (Bool.not_eq_true' _)
    exact ⟨exists_skip (exec_skp_of_key hk) Iff.rfl, exists_skip (exec_sknp_of_key hk) hup⟩
  · exact ⟨exec_skp_of_gt h, exec_sknp_of_gt h⟩

/-- Settles O57: with a key down Fx0A is the write of the lowest one, with none it is a jump back. -/
theorem keyWaitTakesLowestOrRetries : Obligations.KeyWaitTakesLowestOrRetries := by
  refine fun x s => ⟨encode_and_mask (.ldVxK x), fun k hdown hlower => ?_, fun hup => ?_⟩
  · have hlowest : s.lowestKey = some k := (lowestKey_eq_some_iff s k).mpr ⟨hdown, hlower⟩
    obtain ⟨t, ht, hreg, hframe⟩ := exists_setReg (exec_ldVxK_of_lowest hlowest)
    exact ⟨t, ht, hreg ▸ toNat_regByte k, hframe⟩
  · have hnone : s.lowestKey = none := (lowestKey_eq_none_iff s).mpr hup
    refine ⟨⟨_, exec_ldVxK_of_none hnone, ?_, frame_jumpTo s _ rfl⟩, fun hx => ?_⟩
    · rw [State.jumpTo_pc]; bv_omega
    · exact ⟨_, step_ldVxK_of_none hx hnone, rfl, toNat_countDown _, toNat_countDown _,
        (frame_beginStep_jumpTo_pc s (.inl rfl)).trans ((frame_tick _).mono fun _ => .inr)⟩

/-- Settles O58: each is one write, and the step is that write between `State.beginStep` and the tick. -/
theorem timerAccess : Obligations.TimerAccess := fun x s =>
  ⟨encode_and_mask (.ldVxDt x), encode_and_mask (.ldDtVx x), encode_and_mask (.ldStVx x),
    exists_setReg rfl, ⟨_, rfl, rfl, frame_setDelayTimer s _⟩, ⟨_, rfl, rfl, frame_setSoundTimer s _⟩,
    fun h => ⟨_, step_of_executes_next h rfl, State.reg_setReg_self _ x _, toNat_countDown _⟩,
    fun h => ⟨_, step_of_executes_next h rfl, toNat_countDown _⟩,
    fun h => ⟨_, step_of_executes_next h rfl, toNat_countDown _⟩⟩

end Sys2Proof.Machine
end

/-! # Proofs: the faults of 60_exceptions.md

`MayRaise` is the table of 60 R114, by instruction. Four shared operations raise the faults of phase P5, one kind
each; what one of them answers is a next state or its own fault when that holds of its body, and every other arm of
`exec` answers a next state outright. -/

section
namespace Sys2Proof.Machine

/-! ## The faults an operation can end in -/

/-- The operation is not refused, and where it faults, the fault is one of `P`. -/
def Result.NextOrFault (P : Fault → Prop) : Result → Prop
  | .next _ => True
  | .fault f => P f
  | .refused _ => False

variable {P : Fault → Prop} {r : Result} {f : Fault} {i : Instr}

/-- No refusal is a next state or a fault. -/
theorem Result.NextOrFault.ne_refused (h : Result.NextOrFault P r) (q : Refusal) : r ≠ .refused q := by
  rintro rfl
  exact h

/-- The range check adds AddressOutOfRange (60 R109). -/
theorem nextOrFault_withRange (base len : Nat) (h : Result.NextOrFault P r) (hP : ∀ a, P (.addressOutOfRange a)) :
    Result.NextOrFault P (withRange base len r) := by
  obtain ⟨_, e⟩ | ⟨_, e⟩ := withRange_cases base len r <;> rw [e]
  · exact h
  · exact hP _

/-- The push adds StackOverflow (60 R110). -/
theorem nextOrFault_withPush (s : State) {body : State → Result} (h : ∀ t, Result.NextOrFault P (body t))
    (hP : P .stackOverflow) : Result.NextOrFault P (withPush s body) := by
  obtain ⟨_, e⟩ | ⟨_, e⟩ := withPush_cases s body <;> rw [e]
  · exact h _
  · exact hP

/-- The pop adds StackUnderflow (60 R111). -/
theorem nextOrFault_withPop (s : State) {body : Word → State → Result} (h : ∀ a t, Result.NextOrFault P (body a t))
    (hP : P .stackUnderflow) : Result.NextOrFault P (withPop s body) := by
  obtain ⟨_, _, _, e⟩ | ⟨_, e⟩ := withPop_cases s body <;> rw [e]
  · exact h _ _
  · exact hP

/-- The key number adds KeyIndexOutOfRange (60 R112). -/
theorem nextOrFault_withKey (v : Byte) {body : Reg → Result} (h : ∀ k, Result.NextOrFault P (body k))
    (hP : P (.keyIndexOutOfRange v)) : Result.NextOrFault P (withKey v body) := by
  obtain ⟨k, _, e⟩ | ⟨_, e⟩ := withKey_cases v body <;> rw [e]
  · exact h k
  · exact hP

/-! ## The faults of each instruction -/

/-- The faults an instruction can raise in phase P5 (60 R114): at most one kind each, and none but for these eight. -/
def MayRaise (i : Instr) (f : Fault) : Prop :=
  match i with
  | .call _ => f = .stackOverflow
  | .ret => f = .stackUnderflow
  | .drw _ _ _ | .ldB _ | .stRegs _ | .ldRegs _ => ∃ a, f = .addressOutOfRange a
  | .skp _ | .sknp _ => ∃ k, f = .keyIndexOutOfRange k
  | _ => False

/-- An instruction is never refused, and raises only what the table lists for it. -/
theorem nextOrFault_exec (i : Instr) (s : State) : Result.NextOrFault (MayRaise i) (exec i s) := by
  cases i with
  | call =>
    simp only [exec, execCall]
    exact nextOrFault_withPush s (fun _ => trivial) rfl
  | ret =>
    simp only [exec, execRet]
    exact nextOrFault_withPop s (fun _ _ => trivial) rfl
  | drw | ldB | stRegs | ldRegs => exact nextOrFault_withRange _ _ trivial fun a => ⟨a, rfl⟩
  | skp x | sknp x =>
    simp only [exec, execSkp, execSknp]
    exact nextOrFault_withKey (s.reg x) (fun _ => trivial) ⟨s.reg x, rfl⟩
  | ldVxK =>
    simp only [exec, execLdVxK]
    split <;> exact trivial
  | _ => exact trivial

/-- A fault of an instruction is in the table. -/
theorem mayRaise_of_exec {s : State} (h : exec i s = .fault f) : MayRaise i f := by
  have hexec := nextOrFault_exec i s
  rwa [h] at hexec

/-- The table read by fault: which instructions raise each kind. -/
theorem MayRaise.by_fault (h : MayRaise i f) :
    (f = .stackOverflow ∧ ∃ nnn, i = .call nnn) ∨ (f = .stackUnderflow ∧ i = .ret) ∨
      ((∃ a, f = .addressOutOfRange a) ∧
        ((∃ x y n, i = .drw x y n) ∨ ∃ x, i = .ldB x ∨ i = .stRegs x ∨ i = .ldRegs x)) ∨
      ((∃ k, f = .keyIndexOutOfRange k) ∧ ∃ x, i = .skp x ∨ i = .sknp x) := by
  cases i with
  | call nnn => exact .inl ⟨h, nnn, rfl⟩
  | ret => exact .inr (.inl ⟨h, rfl⟩)
  | drw x y n => exact .inr (.inr (.inl ⟨h, .inl ⟨x, y, n, rfl⟩⟩))
  | ldB x => exact .inr (.inr (.inl ⟨h, .inr ⟨x, .inl rfl⟩⟩))
  | stRegs x => exact .inr (.inr (.inl ⟨h, .inr ⟨x, .inr (.inl rfl)⟩⟩))
  | ldRegs x => exact .inr (.inr (.inl ⟨h, .inr ⟨x, .inr (.inr rfl)⟩⟩))
  | skp x => exact .inr (.inr (.inr ⟨h, x, .inl rfl⟩))
  | sknp x => exact .inr (.inr (.inr ⟨h, x, .inr rfl⟩))
  | _ => exact h.elim

/-! ## The obligations -/

/-- Settles O11: an outcome that `MayRaise` bounds is no refusal, and its fault is in the table. -/
theorem faultsAreThoseOfTheInstruction : Obligations.FaultsAreThoseOfTheInstruction := fun i s =>
  ⟨(nextOrFault_exec i s).ne_refused, fun _ hf => (mayRaise_of_exec hf).by_fault⟩

/-- Settles O7: an opcode that no row admits does not decode (O3), and the decode error carries it into the fault. -/
theorem stepFaultsOnUnknownOpcode : Obligations.StepFaultsOnUnknownOpcode := by
  intro s op hfetch hnone
  obtain ⟨-, hunknown, -⟩ := decodeFollowsOpcodeMap
  exact step_of_decode_error hfetch (hunknown op hnone)

end Sys2Proof.Machine
end

/-! # Proofs: reset, program load and the end of a run of 70_reset_and_hazards.md

Reset installs `State.reset` with the old draw index, and nothing that can be fetched there is an instruction; a load is
a store at 0x200; a self-jump is the instruction 1nnn whose target is its own address. -/

section
namespace Sys2Proof.Machine

variable {s t : State} {bytes : List Byte}

/-! ## Reset -/

/-- Reset is `State.reset` but for the draw index, which goes on (log entry 1). -/
theorem resetOp_eq (s : State) : resetOp s = .next (State.reset.withDraws s.draws) := rfl

/-- After reset both bytes at 0x200 are the reset contents, zero. -/
theorem fetch_reset_withDraws (n : Nat) : (State.reset.withDraws n).fetch = .ok 0x0000 :=
  have hzero : (0x0000 : Word) = opcodeOf (resetByte 0x200) (resetByte 0x201) := by decide
  (fetch_eq_ok_iff _ _).mpr ⟨(by decide : 0x200 + 2 ≤ 4096), hzero⟩

theorem decode_zero : decode 0x0000 = .error (.unknownOpcode 0x0000) := by decide

/-! ## Program load -/

/-- An image that fits is stored at 0x200. -/
theorem loadProgram_of_fits (h : bytes.length ≤ 3584) : loadProgram bytes s = .next (s.storeBytes 0x200 bytes) :=
  if_neg (Nat.not_lt.mpr h)

/-- A longer image is refused whole. -/
theorem loadProgram_of_tooLarge (h : 3584 < bytes.length) :
    loadProgram bytes s = .fault (.programTooLarge bytes.length) :=
  if_pos h

/-! ## The jump to itself -/

/-- An address of 12 bits is the target of the 1nnn that holds its low 12 bits. -/
theorem addressOf_setWidth {a : Word} (h : a.toNat ≤ 0xFFF) : addressOf (a.setWidth 12) = a := by
  unfold addressOf; bv_omega

/-- The two bytes at a self-jump are the 1nnn whose target is `pc`. -/
theorem State.atSelfJump.executes_jp (h : s.atSelfJump) : s.executes (.jp (s.pc.setWidth 12)) := by
  obtain ⟨hpc, hhi, hlo⟩ := h
  refine ⟨encode (.jp (s.pc.setWidth 12)), (fetch_eq_ok_iff _ _).mpr ⟨by omega, BitVec.eq_of_toNat_eq ?_⟩,
    decode_encode _⟩
  calc (encodeNNN 0x1 (s.pc.setWidth 12)).toNat
      = 0x1000 + s.pc.toNat := by
        rw [toNat_encodeNNN, BitVec.toNat_setWidth, Nat.mod_eq_of_lt (by omega)]; rfl
    _ = 256 * (0x10 + s.pc.toNat / 256) + s.pc.toNat % 256 := by omega
    _ = (opcodeOf (s.readByte s.pc.toNat) (s.readByte (s.pc.toNat + 1))).toNat := by
        rw [toNat_opcodeOf, hhi, hlo]

/-- The step at a self-jump: the advance of `pc` is undone by the jump. -/
theorem State.atSelfJump.step_eq (h : s.atSelfJump) : step s = .next (s.beginStep.jumpTo s.pc).tick := by
  have ⟨hpc, _, _⟩ := h
  have htarget : addressOf (s.pc.setWidth 12) = s.pc := addressOf_setWidth (hpc.trans (Nat.le_succ _))
  have hjump : exec (.jp (s.pc.setWidth 12)) s.beginStep = .next (s.beginStep.jumpTo s.pc) :=
    congrArg (Host.Outcome.next <| s.beginStep.jumpTo ·) htarget
  exact step_of_executes_next h.executes_jp hjump

/-- Being at a self-jump depends on `pc` and the memory only. -/
theorem State.atSelfJump.congr (h : s.atSelfJump) (hpc : t.pc = s.pc) (hmem : t.memory = s.memory) :
    t.atSelfJump := by
  unfold State.atSelfJump
  rw [hpc, State.readByte_congr hmem, State.readByte_congr hmem]
  exact h

/-! ## The obligations -/

/-- Settles O24: the step is a jump back to `pc` between `State.beginStep` and the tick. -/
theorem selfJumpChangesOnlyTimers : Obligations.SelfJumpChangesOnlyTimers := fun s h =>
  ⟨_, h.step_eq, h.congr rfl rfl, rfl, toNat_countDown _, toNat_countDown _,
    (frame_beginStep_jumpTo_pc s (.inr (.inr rfl))).trans
      ((frame_tick _).mono fun _ hp => hp.imp_right .inl)⟩

/-- Settles O26: 3584 bytes from 0x200 up end at 0xFFF, so the store of the image reads back byte by byte. -/
theorem loadProgramCopiesTheImage : Obligations.LoadProgramCopiesTheImage := by
  refine fun bytes s => ⟨fun hlen hwf => ?_, loadProgram_of_tooLarge⟩
  have hfit : 0x200 + bytes.length ≤ 4096 := by omega
  refine ⟨_, loadProgram_of_fits hlen, fun k hk => ?_, frame_storeBytes hwf hfit⟩
  rw [State.readByte_storeBytes hwf hfit, if_pos (by omega), Nat.add_sub_cancel_left]

/-- Settles O25: each element is read off `State.reset`, and the step decodes the opcode 0x0000. -/
theorem resetInstallsEveryElement : Obligations.ResetInstallsEveryElement :=
  ⟨rfl, fun s => ⟨_, resetOp_eq s, fun _ _ => rfl, fun _ => Display.pixel_clear _ _,
    fun k => Vector.getElem_replicate k.isLt, fun k => Vector.getElem_replicate k.isLt,
    fun k => Vector.getElem_replicate k.isLt, rfl, rfl, rfl, rfl, rfl, rfl, rfl,
    step_of_decode_error (fetch_reset_withDraws _) decode_zero⟩⟩

end Sys2Proof.Machine
end
